-- ==== Sys2Proof/Word.lean ====
section
/-! DEFINITION. The word types of the block: the byte and the four ports and words the spec gives a width. -/

namespace Sys2Proof

/-- The unit of every transfer (rule R26) and of the codec (rule R4, `VALUE_WIDTH`). Bit 0 is the
least significant bit (rule R6). -/
abbrev Byte := BitVec 8

/-- The 3-bit input port `op` (rule R13). -/
abbrev OpCode := BitVec 3

/-- The 56-bit input port `din`: seven operand bytes (rule R13). -/
abbrev Din := BitVec 56

/-- The 160-bit output port `dout`: twenty result bytes (rule R13). -/
abbrev Dout := BitVec 160

/-- The 59-bit command word `cw`, a way of writing the pair (`op`, `din`) (rule R42). -/
abbrev CommandWord := BitVec 59

end Sys2Proof
end

