-- ==== Sys2Proof/Machine/Lanes.lean ====
section
/-! DEFINITION. Byte lanes of the wide ports (rules R13 and R23, decision D14). -/

namespace Sys2Proof.Machine

/-- Byte `i` of a port: bits `8*i+7` down to `8*i` (rule R13). On `din` this is `DI[i]`, on `dout`
it is `DO[i]`. -/
def lane {w : Nat} (i : Nat) (x : BitVec w) : Byte := x.extractLsb' (8 * i) 8

/-- The port value whose lane `i` is byte `i` of the list; a lane past the end of the list is 0x00
(rule R41, decision D5). -/
def packLanes (w : Nat) : List Byte → BitVec w
  | [] => 0
  | b :: bs => b.setWidth w ||| (packLanes w bs <<< 8)

end Sys2Proof.Machine
end

