-- ==== Sys2Proof/Syntax.lean ====
section
/-! DEFINITION. The data formats an operation names (rules R33, R37, R38) and the one inductive of
commands: five operations and the three reserved codes of the opcode table. -/

namespace Sys2Proof

/-- Time value: six 8-bit unsigned fields, in the order of rule R33. Every value of every field is
accepted (rule R63); the intended ranges are `TimeValue.inRange`. -/
structure TimeValue where
  year   : Byte
  month  : Byte
  day    : Byte
  hour   : Byte
  minute : Byte
  second : Byte
deriving DecidableEq, Repr

/-- Read frame `B[0]` to `B[6]`: the bytes of device offsets 0x00 to 0x06 (rule R37). -/
structure ReadFrame where
  /-- `B[0]`, seconds. -/
  b0 : Byte
  /-- `B[1]`, minutes. -/
  b1 : Byte
  /-- `B[2]`, the hour byte of rule R34. -/
  b2 : Byte
  /-- `B[3]`, day of week, presented and ignored. -/
  b3 : Byte
  /-- `B[4]`, day of month. -/
  b4 : Byte
  /-- `B[5]`, the month/century byte of rule R35. -/
  b5 : Byte
  /-- `B[6]`, year within the century. -/
  b6 : Byte
deriving DecidableEq, Repr

/-- Write frame `W[0]` to `W[7]`: the register pointer, then the bytes for device offsets 0x00 to
0x06 (rule R38). -/
structure WriteFrame where
  /-- `W[0]`, the register pointer. -/
  w0 : Byte
  /-- `W[1]`, seconds. -/
  w1 : Byte
  /-- `W[2]`, minutes. -/
  w2 : Byte
  /-- `W[3]`, hours. -/
  w3 : Byte
  /-- `W[4]`, the day-of-week slot. -/
  w4 : Byte
  /-- `W[5]`, day of month. -/
  w5 : Byte
  /-- `W[6]`, the month/century byte. -/
  w6 : Byte
  /-- `W[7]`, year within the century. -/
  w7 : Byte
deriving DecidableEq, Repr

/-- A command, one constructor per row of the opcode table (rules R40 and R43). An operand byte that
an operation does not read is no operand of its constructor; `B[3]` is one, since the textual form of
rule R45 writes it. -/
inductive Instr where
  /-- ENCBCD, op code 0 (rule R50). -/
  | encbcd (v : Byte)
  /-- DECBCD, op code 1 (rule R53). -/
  | decbcd (b : Byte)
  /-- PACKT, op code 2 (rule R60). -/
  | packt (t : TimeValue)
  /-- UNPKT, op code 3 (rule R66). -/
  | unpkt (f : ReadFrame)
  /-- FMTT, op code 4 (rule R80); a reserved code when `HAS_FMT` is false (rule R86). -/
  | fmtt (t : TimeValue)
  /-- The reserved op code 5 (rule R43). -/
  | reserved5
  /-- The reserved op code 6 (rule R43). -/
  | reserved6
  /-- The reserved op code 7 (rule R43). -/
  | reserved7
deriving DecidableEq, Repr

end Sys2Proof
end

