-- ==== Sys2Proof/Machine/Operands.lean ====
section
/-! DEFINITION. Every operand form and result form of rule R41: which lanes of `din` hold an operand,
which bytes a result drives, and how a host feeds a result back as an operand. -/

namespace Sys2Proof.Machine

/-- The one-byte operand of ENCBCD and DECBCD: `DI[0]`. -/
def byteOfDin (din : Din) : Byte := lane 0 din

/-- The time value in `DI[0]` to `DI[5]`, the operand of PACKT and FMTT. -/
def timeOfDin (din : Din) : TimeValue :=
  { year := lane 0 din, month := lane 1 din, day := lane 2 din
    hour := lane 3 din, minute := lane 4 din, second := lane 5 din }

/-- The read frame in `DI[0]` to `DI[6]`, the operand of UNPKT. -/
def frameOfDin (din : Din) : ReadFrame :=
  { b0 := lane 0 din, b1 := lane 1 din, b2 := lane 2 din, b3 := lane 3 din
    b4 := lane 4 din, b5 := lane 5 din, b6 := lane 6 din }

/-- The six bytes of a time value in the order of rule R41. -/
def timeBytes (t : TimeValue) : List Byte := [t.year, t.month, t.day, t.hour, t.minute, t.second]

/-- The seven bytes of a read frame in ascending device offset (rule R23). -/
def readFrameBytes (f : ReadFrame) : List Byte := [f.b0, f.b1, f.b2, f.b3, f.b4, f.b5, f.b6]

/-- The eight bytes of a write frame in bus order (rule R38). -/
def writeFrameBytes (w : WriteFrame) : List Byte := [w.w0, w.w1, w.w2, w.w3, w.w4, w.w5, w.w6, w.w7]

/-- The read frame a device that keeps the bytes unchanged gives back: `W[0]` is dropped, so
`B[i] = W[i+1]` (rule R22). -/
def readBack (w : WriteFrame) : ReadFrame :=
  { b0 := w.w1, b1 := w.w2, b2 := w.w3, b3 := w.w4, b4 := w.w5, b5 := w.w6, b6 := w.w7 }

/-- The host's move from a write frame on `dout` to the operand of UNPKT: `DI[i] = DO[i+1]` for `i`
from 0 to 6 (rule R41). -/
def dinOfWriteFrame (dout : Dout) : Din := dout.extractLsb' 8 56

/-- The host's move from a time value on `dout` to the operand of PACKT or FMTT: `DI[i] = DO[i]` for
`i` from 0 to 5, with any `DI[6]` (rule R41). -/
def dinOfTime (di6 : Byte) (dout : Dout) : Din :=
  packLanes 56 [lane 0 dout, lane 1 dout, lane 2 dout, lane 3 dout, lane 4 dout, lane 5 dout, di6]

/-- The host's move from a one-byte result to the operand of ENCBCD or DECBCD: `DI[0] = DO[0]`,
the don't-care bytes 0x00. -/
def dinOfByte (dout : Dout) : Din := packLanes 56 [lane 0 dout]

end Sys2Proof.Machine
end

