-- ==== Sys2Proof/WellFormed.lean ====
section
/-! DEFINITION. The checks the spec names. None is made by the block (rules R14 and R44): every term of
`Instr` can be presented. They are the premises a claim about meaning needs, and the check that eight
bytes are a command word at all. -/

namespace Sys2Proof

/-- `IsBcd(b)`: both nibbles are decimal digits (rule R32). -/
def isBcd (b : Byte) : Bool :=
  decide (b.toNat / 16 ≤ 9) && decide (b.toNat % 16 ≤ 9)

/-- The intended ranges of the six fields (rule R33), each field alone: no field is checked against
another. -/
def TimeValue.inRange (t : TimeValue) : Bool :=
  decide (t.year.toNat ≤ 199) &&
  (decide (1 ≤ t.month.toNat) && decide (t.month.toNat ≤ 12)) &&
  (decide (1 ≤ t.day.toNat) && decide (t.day.toNat ≤ 31)) &&
  decide (t.hour.toNat ≤ 23) && decide (t.minute.toNat ≤ 59) && decide (t.second.toNat ≤ 59)

/-- The wider ranges under which packing then unpacking gives the time value back (rule R73). -/
def TimeValue.packable (t : TimeValue) : Bool :=
  decide (t.year.toNat ≤ 199) && decide (t.month.toNat ≤ 19) && decide (t.day.toNat ≤ 99) &&
  decide (t.hour.toNat ≤ 39) && decide (t.minute.toNat ≤ 99) && decide (t.second.toNat ≤ 99)

/-- The ranges in which every two-digit field of the formatted string is the decimal reading of the
field (rule R82). -/
def TimeValue.printable (t : TimeValue) : Bool :=
  decide (t.month.toNat ≤ 99) && decide (t.day.toNat ≤ 99) && decide (t.hour.toNat ≤ 99) &&
  decide (t.minute.toNat ≤ 99) && decide (t.second.toNat ≤ 99)

/-- A 24-hour read frame of packed-BCD bytes (rule R72): `B[3]` is not looked at, the month byte is
looked at through its mask, and bit 6 of the hour byte is clear. -/
def ReadFrame.isBcd24 (f : ReadFrame) : Bool :=
  isBcd f.b0 && isBcd f.b1 && isBcd f.b2 && isBcd f.b4 && isBcd (f.b5 &&& 0x1F#8) && isBcd f.b6 &&
  !f.b2.getLsbD 6

/-- The instruction is an operation of the block and not a reserved code (rules R40, R43 and R86). -/
def Instr.isOperation (hasFmt : Bool) : Instr → Bool
  | .encbcd _ => true
  | .decbcd _ => true
  | .packt _ => true
  | .unpkt _ => true
  | .fmtt _ => hasFmt
  | .reserved5 => false
  | .reserved6 => false
  | .reserved7 => false

/-- A command word stored in bytes takes eight of them: 59 bits and five unused (log entry 8). -/
def commandBytesLength (bs : List Byte) : Bool := bs.length == 8

/-- The last of the eight bytes holds bits 58 to 56 of the command word in its low three bits, and
nothing above them (rule R42, log entry 8). -/
def commandBytesTop (bs : List Byte) : Bool := decide ((bs.getD 7 0#8).toNat < 8)

/-- The bytes are a command word. -/
def commandBytesWellFormed (bs : List Byte) : Bool := commandBytesLength bs && commandBytesTop bs

end Sys2Proof
end

