-- ==== Sys2Proof/Decode.lean ====
section
/-! DEFINITION. The decoder, from the two input ports and from a command word in bytes, and after it
the encoder, both from rules R40 to R42 and the opcode table. -/

namespace Sys2Proof

open Machine (packLanes byteOfDin timeOfDin frameOfDin timeBytes readFrameBytes lane)

/-- The command on the ports: `op` selects it (rule R40), the lanes of `din` are its operands
(rule R41). Total: with a reserved `op`, `din` is not examined (rule R93). -/
def decodePorts (op : OpCode) (din : Din) : Instr :=
  match op.toFin with
  | 0 => .encbcd (byteOfDin din)
  | 1 => .decbcd (byteOfDin din)
  | 2 => .packt (timeOfDin din)
  | 3 => .unpkt (frameOfDin din)
  | 4 => .fmtt (timeOfDin din)
  | 5 => .reserved5
  | 6 => .reserved6
  | 7 => .reserved7

/-- `op = cw[2:0]` (rule R42). -/
def opField (cw : CommandWord) : OpCode := cw.extractLsb' 0 3

/-- `din = cw[58:3]`, so that `DI[i] = cw[8*i+10 : 8*i+3]` (rule R42). -/
def dinField (cw : CommandWord) : Din := cw.extractLsb' 3 56

/-- The command a command word stands for (rule R42). -/
def decode (cw : CommandWord) : Instr := decodePorts (opField cw) (dinField cw)

/-- Why eight bytes are no command word. -/
inductive DecodeError where
  /-- The list has another length than eight; raised by `decodeBytes`; safe. -/
  | wrongLength (n : Nat)
  /-- A bit above bit 58 is set; raised by `decodeBytes`; safe (log entry 8). -/
  | bitsAboveCommandWord
deriving DecidableEq, Repr

/-- The command in a list of bytes, the lowest byte of the command word first (log entry 8). -/
def decodeBytes (bs : List Byte) : Except DecodeError Instr :=
  if commandBytesLength bs then
    if commandBytesTop bs then .ok (decode ((packLanes 64 bs).setWidth 59))
    else .error .bitsAboveCommandWord
  else .error (.wrongLength bs.length)

/-- The lowest `n` bytes of a number, the least significant first. -/
def bytesOfNat : Nat → Nat → List Byte
  | 0, _ => []
  | n + 1, w => BitVec.ofNat 8 w :: bytesOfNat n (w / 256)

/-- What the decoder reads from an opcode-table word of `nbits` bits, the bits above them 0. A number
of more than 64 bits is no command word. -/
def decodeTableWord (nbits w : Nat) : Option Instr :=
  if w % 2 ^ nbits < 2 ^ 64 then (decodeBytes (bytesOfNat 8 (w % 2 ^ nbits))).toOption else none

/-- The op code of a command (rules R40 and R43). -/
def opCodeOf : Instr → OpCode
  | .encbcd _ => 0
  | .decbcd _ => 1
  | .packt _ => 2
  | .unpkt _ => 3
  | .fmtt _ => 4
  | .reserved5 => 5
  | .reserved6 => 6
  | .reserved7 => 7

/-- The operand bytes of a command in the order of rule R41. -/
def operandBytesOf : Instr → List Byte
  | .encbcd v => [v]
  | .decbcd b => [b]
  | .packt t => timeBytes t
  | .unpkt f => readFrameBytes f
  | .fmtt t => timeBytes t
  | .reserved5 => []
  | .reserved6 => []
  | .reserved7 => []

/-- `din` with the operand bytes in their lanes and every don't-care byte 0x00, as rule R42 says
vectors are written (log entry 9). -/
def dinOf (i : Instr) : Din := packLanes 56 (operandBytesOf i)

/-- The command word `cw = (din << 3) | op` (rule R42). -/
def encode (i : Instr) : CommandWord := dinOf i ++ opCodeOf i

/-- The command word in eight bytes, the lowest first (log entry 8). -/
def encodeBytes (i : Instr) : List Byte := bytesOfNat 8 (encode i).toNat

/-- The operand bits of `din` that a command with this op code reads or presents: the letters of the
opcode table's pattern other than `x`, and `B[3]` (rule R41). -/
def operandMask (op : OpCode) : Din :=
  match op.toFin with
  | 0 => 0x000000000000FF
  | 1 => 0x000000000000FF
  | 2 => 0x00FFFFFFFFFFFF
  | 3 => 0xFFFFFFFFFFFFFF
  | 4 => 0x00FFFFFFFFFFFF
  | 5 => 0
  | 6 => 0
  | 7 => 0

end Sys2Proof
end

