-- ==== Sys2Proof/Config.lean ====
section
/-! DEFINITION. What is fixed for the life of a block: the open function `HOUR12` and the shape of the
parameters of rules R4 and R5. Their values for this block are `Sys2Proof.Machine.thisBlock`. -/

namespace Sys2Proof

/-- `HOUR12`, the hour UNPKT gives for an hour byte in 12-hour mode (rule R68, decision D11: OPEN).
A free value: it has no body, so a proof knows only that it is a function of that one byte.
DESIGN CHOICE in form, log entry 5; safe. -/
opaque Config.hour12 : Byte → Byte

/-- The parameters of rules R4 and R5 that an operation's formula can read. The widths and lengths of
rule R4 (`VALUE_WIDTH`, `READ_FRAME_LEN`, `WRITE_FRAME_LEN`, `FMT_LEN`) are in the types and lists. -/
structure Params where
  /-- `HOUR12`, rule R68. -/
  hour12 : Byte → Byte
  /-- `HAS_FMT`, whether the formatter is present, rules R5 and R86. -/
  hasFmt : Bool
  /-- `PTR_SECONDS`, the pointer byte that opens the write frame. -/
  ptrSeconds : Byte
  /-- `DOW_FILLER`, the byte written in the day-of-week slot. -/
  dowFiller : Byte
  /-- `MONTH_MASK`, applied to the month byte on decode. -/
  monthMask : Byte
  /-- `CENTURY_BIT`, the bit of the month byte that holds the century. -/
  centuryBit : Nat
  /-- `MODE12_BIT`, the bit of the hour byte that selects 12-hour mode. -/
  mode12Bit : Nat
  /-- `PM_BIT`, the bit of the hour byte that means PM in 12-hour mode. No rule's formula reads it:
  it is an input of `HOUR12` alone (rule R68). -/
  pmBit : Nat
  /-- `CENTURY_YEARS`, years added per century bit on decode. -/
  centuryYears : Nat
  /-- `EPOCH_YEAR`, the calendar year of time-value year 0. -/
  epochYear : Nat

end Sys2Proof
end

