-- ==== Sys2Proof/Machine/State.lean ====
section
/-! DEFINITION. The state of one step: the unit state of the block, and beside it what the host holds (the
inputs) and keeps (the samples), with the model's safety record. -/

namespace Sys2Proof.Machine

/-- The one condition of rule R90. -/
inductive Fault where
  /-- `op` selected no operation (rule R90). `resultOf` answers it for a sample with `ill` = 1, and
  `raiseIllegal` RECORDS it in `State.safetyRecord` and goes on: the spec gives the command its effect
  (`dout` 0x00, `ill` 1) and the next command is unaffected, so no step answers `Host.Outcome.fault`.
  Safe (log entry 4). -/
  | illegalOperation
deriving DecidableEq, Repr

/-- Why a command would have no meaning. -/
inductive Refusal where
  /-- The command has no meaning in the model yet. Raised by an arm of `exec`; no arm does. Safe. -/
  | notModelled (mnemonic : String)
deriving DecidableEq, Repr

/-- The state of the block: the unit type, for it has no storage element of any kind (rule R10). -/
abbrev BlockState := Unit

/-- The values on the output ports at one moment: the pair (`dout`, `ill`) of rule R15, `ill` 1 for true. -/
structure Outputs where
  dout : Dout
  ill : Bool
deriving DecidableEq, Repr

/-- The block, its inputs, and the host's side of a run. There is NO field for `dout` or `ill`: they are
functions of the inputs at every moment (rule R15), `State.dout` and `State.ill`. -/
structure State where
  /-- The block itself (rule R10). -/
  block : BlockState
  /-- Input port `op`, as the host holds it (rule R13). No step writes it (rule R108; log entry 1). -/
  op : OpCode
  /-- Input port `din`, as the host holds it (rule R13). No step writes it (rule R108; log entry 1). -/
  din : Din
  /-- THE HOST'S, no state of the block: the outputs it has sampled, one for each step, the oldest first
  ("what a program leaves behind is the list of results the host sampled", file 95 section 9). No
  operation reads it (log entry 2). -/
  samples : List Outputs
  /-- THE MODEL'S OWN record, no state of the block: `some` once a command with `ill` = 1 has been
  evaluated ("it is the model's own safety record that must keep it", rule R90). No operation reads
  it (log entry 4). -/
  safetyRecord : Option Fault
deriving DecidableEq, Repr

/-- Reset does not exist (rule R100) and the block has nothing to reset (rule R17). The inputs hold 0
before the host's first command (DESIGN CHOICE, unsafe, log entry 3); nothing has been sampled or
recorded. -/
def State.reset : State :=
  { block := (), op := 0, din := 0, samples := [], safetyRecord := none }

end Sys2Proof.Machine
end

