-- ==== Sys2Proof/Machine/Ops.lean ====
section
/-! DEFINITION. The named operations over the ports: the parameters of this block, the outputs of a result
and of a reserved code, raising the illegal-operation condition, and the host's two acts (present a
command, sample the outputs). -/

namespace Sys2Proof.Machine

/-- The parameters of this block (rules R4 and R5). `HOUR12` is open. `HAS_FMT` is decided true
(decision D12, log entry 6). -/
def thisBlock : Params :=
  { hour12 := Config.hour12
    hasFmt := true
    ptrSeconds := 0x00
    dowFiller := 0x01
    monthMask := 0x1F
    centuryBit := 7
    mode12Bit := 6
    pmBit := 5
    centuryYears := 100
    epochYear := 2000 }

/-- The outputs of an operation with these result bytes: they fill `dout` from `DO[0]` on, every later
byte is 0x00, and `ill` is 0 (rule R41). -/
def resultOutputs (bytes : List Byte) : Outputs := { dout := packLanes 160 bytes, ill := false }

/-- The outputs of a reserved op code: every byte of `dout` 0x00 and `ill` 1 (rule R43). -/
def illegalOutputs : Outputs := { dout := 0, ill := true }

/-- The host samples the outputs of the command evaluated: they go at the end of its samples, and a command
with `ill` = 1 is entered in the safety record. The inputs stay as the host holds them (rule R108) and the
block keeps nothing (rule R10). -/
def sampleOutputs (o : Outputs) (s : State) : State :=
  { s with
    samples := s.samples ++ [o]
    safetyRecord := if o.ill then some .illegalOperation else s.safetyRecord }

/-- TAKING THE ONE CONDITION of the block: `dout` all 0x00 and `ill` = 1 for this command, and nothing of the
block changes, for it saves no state, changes no mode and transfers control nowhere (rules R43, R90 and
R94). There is nothing to return from, hence no return operation. -/
def raiseIllegal (s : State) : State := sampleOutputs illegalOutputs s

/-- The host puts a command on the inputs (rules R11 and R13). The outputs, being functions of the inputs,
are those of this command from that moment on (rules R15 and R17). -/
def State.present (s : State) (op : OpCode) (din : Din) : State := { s with op := op, din := din }

/-- A sample as a result: a command with `ill` = 1 is a fault of that command, never a result (rule R90). -/
def resultOf (o : Outputs) : Except Fault Dout :=
  if o.ill then .error .illegalOperation else .ok o.dout

end Sys2Proof.Machine
end

