-- ==== Sys2Proof/Machine/Codec.lean ====
section
/-! DEFINITION. The BCD codec: ENCBCD and DECBCD (rules R50 to R57). Arithmetic is exact over the
naturals and narrowed at the end (rule R7). -/

namespace Sys2Proof.Machine

/-- `ENC(v) = (((v / 10) % 10) << 4) | (v % 10)` (rule R50). -/
def enc (v : Byte) : Byte := BitVec.ofNat 8 (((v.toNat / 10) % 10) <<< 4 ||| v.toNat % 10)

/-- The high nibble `b[7:4]` (rule R6). -/
def hiNibble (b : Byte) : Nat := (b.extractLsb' 4 4).toNat

/-- The low nibble `b[3:0]` (rule R6). -/
def loNibble (b : Byte) : Nat := (b.extractLsb' 0 4).toNat

/-- `DEC(b) = b[7:4] * 10 + b[3:0]`, for every byte (rules R53 and R54). -/
def dec (b : Byte) : Byte := BitVec.ofNat 8 (hiNibble b * 10 + loNibble b)

/-- ENCBCD (rule R50). -/
def execEncbcd (v : Byte) (s : State) : Host.Outcome State Fault Refusal :=
  .next (sampleOutputs (resultOutputs [enc v]) s)

/-- DECBCD (rule R53). -/
def execDecbcd (b : Byte) (s : State) : Host.Outcome State Fault Refusal :=
  .next (sampleOutputs (resultOutputs [dec b]) s)

end Sys2Proof.Machine
end

