-- ==== Sys2Proof/Machine/Formatter.lean ====
section
/-! DEFINITION. The optional time formatter: FMTT (rules R80 to R86), with the ASCII codes of rule R83. -/

namespace Sys2Proof.Machine

/-- `'0' + n`, in 8 bits (rules R80 and R82). -/
def digitChar (n : Nat) : Byte := BitVec.ofNat 8 (0x30 + n)

/-- `hi(v) = '0' + v / 10`, with no guard (rule R82). -/
def hiDigit (v : Byte) : Byte := digitChar (v.toNat / 10)

/-- `lo(v) = '0' + v % 10` (rule R82). -/
def loDigit (v : Byte) : Byte := digitChar (v.toNat % 10)

/-- The calendar year `Y` (rule R81). -/
def calendarYear (p : Params) (year : Byte) : Nat := p.epochYear + year.toNat

/-- The twenty bytes `S[0]` to `S[19]` (rule R80): 0x2D is '-', 0x54 is 'T', 0x3A is ':', and the last
byte is the terminator. -/
def formatTime (p : Params) (t : TimeValue) : List Byte :=
  let y := calendarYear p t.year
  [ digitChar (y / 1000 % 10), digitChar (y / 100 % 10), digitChar (y / 10 % 10), digitChar (y % 10),
    0x2D, hiDigit t.month, loDigit t.month,
    0x2D, hiDigit t.day, loDigit t.day,
    0x54, hiDigit t.hour, loDigit t.hour,
    0x3A, hiDigit t.minute, loDigit t.minute,
    0x3A, hiDigit t.second, loDigit t.second,
    0x00 ]

/-- The outputs of op code 4: the string, or a reserved code's outputs where there is no formatter
(rule R86). -/
def fmttOutputs (p : Params) (t : TimeValue) : Outputs :=
  if p.hasFmt then resultOutputs (formatTime p t) else illegalOutputs

/-- FMTT of a block with parameters `p`: without a formatter it takes the illegal-operation condition
(rules R16, R80 and R86). -/
def execFmttWith (p : Params) (t : TimeValue) (s : State) : Host.Outcome State Fault Refusal :=
  .next (sampleOutputs (fmttOutputs p t) s)

/-- FMTT (rule R80). -/
def execFmtt (t : TimeValue) (s : State) : Host.Outcome State Fault Refusal := execFmttWith thisBlock t s

end Sys2Proof.Machine
end

