-- ==== Sys2Proof/Machine/Packer.lean ====
section
/-! DEFINITION. The time-register packer and unpacker: PACKT and UNPKT (rules R60 to R75). -/

namespace Sys2Proof.Machine

/-- The century bit `c`: 1 exactly when the year is 100 or more (rules R60 and R62). -/
def centuryOf (year : Byte) : Byte := if 100 ≤ year.toNat then 1 else 0

/-- `T.year % 100` (rule R60). -/
def yearInCentury (year : Byte) : Byte := BitVec.ofNat 8 (year.toNat % 100)

/-- The write frame of a time value (rule R60). The month is not masked, so its BCD byte can reach the
century bit (rule R64); the hour is written in 24-hour form (rule R61). -/
def packFrame (p : Params) (t : TimeValue) : WriteFrame :=
  { w0 := p.ptrSeconds
    w1 := enc t.second
    w2 := enc t.minute
    w3 := enc t.hour
    w4 := p.dowFiller
    w5 := enc t.day
    w6 := (centuryOf t.year <<< p.centuryBit) ||| enc t.month
    w7 := enc (yearInCentury t.year) }

/-- The hour of an hour byte: bit 6 alone selects the branch (rule R67), the 12-hour branch is the open
`HOUR12` (rule R68). -/
def unpackHour (p : Params) (b : Byte) : Byte :=
  if b.getLsbD p.mode12Bit then p.hour12 b else dec b

/-- The month of a month/century byte (rule R69). -/
def unpackMonth (p : Params) (b : Byte) : Byte := dec (b &&& p.monthMask)

/-- The year, `trunc_8(100 * B[5][7] + DEC(B[6]))` (rule R70). -/
def unpackYear (p : Params) (b5 b6 : Byte) : Byte :=
  BitVec.ofNat 8 (p.centuryYears * (b5.getLsbD p.centuryBit).toNat + (dec b6).toNat)

/-- The time value of a read frame (rule R66). `B[3]` is not read (rule R71). -/
def unpackFrame (p : Params) (f : ReadFrame) : TimeValue :=
  { year := unpackYear p f.b5 f.b6
    month := unpackMonth p f.b5
    day := dec f.b4
    hour := unpackHour p f.b2
    minute := dec f.b1
    second := dec f.b0 }

/-- PACKT of a block with parameters `p` (rules R16 and R60). -/
def execPacktWith (p : Params) (t : TimeValue) (s : State) : Host.Outcome State Fault Refusal :=
  .next (sampleOutputs (resultOutputs (writeFrameBytes (packFrame p t))) s)

/-- UNPKT of a block with parameters `p` (rules R16 and R66). -/
def execUnpktWith (p : Params) (f : ReadFrame) (s : State) : Host.Outcome State Fault Refusal :=
  .next (sampleOutputs (resultOutputs (timeBytes (unpackFrame p f))) s)

/-- PACKT (rule R60). -/
def execPackt (t : TimeValue) (s : State) : Host.Outcome State Fault Refusal := execPacktWith thisBlock t s

/-- UNPKT (rule R66). -/
def execUnpkt (f : ReadFrame) (s : State) : Host.Outcome State Fault Refusal := execUnpktWith thisBlock f s

end Sys2Proof.Machine
end

