-- ==== Sys2Proof/Machine/Reserved.lean ====
section
/-! DEFINITION. The three reserved op codes (rules R43 and R90): each takes the illegal-operation
condition, whatever `din` holds. -/

namespace Sys2Proof.Machine

/-- Op code 5 (rule R43). -/
def execReserved5 (s : State) : Host.Outcome State Fault Refusal := .next (raiseIllegal s)

/-- Op code 6 (rule R43). -/
def execReserved6 (s : State) : Host.Outcome State Fault Refusal := .next (raiseIllegal s)

/-- Op code 7 (rule R43). -/
def execReserved7 (s : State) : Host.Outcome State Fault Refusal := .next (raiseIllegal s)

end Sys2Proof.Machine
end

