-- ==== Sys2Proof/Machine/Dispatch.lean ====
section
/-! DEFINITION. One arm per constructor of Instr, each one direct call of its meaning. -/

namespace Sys2Proof.Machine

def exec (i : Instr) (s : State) : Host.Outcome State Fault Refusal :=
  match i with
  | .encbcd v => Sys2Proof.Machine.execEncbcd v s
  | .decbcd b => Sys2Proof.Machine.execDecbcd b s
  | .packt t => Sys2Proof.Machine.execPackt t s
  | .unpkt f => Sys2Proof.Machine.execUnpkt f s
  | .fmtt t => Sys2Proof.Machine.execFmtt t s
  | .reserved5 => Sys2Proof.Machine.execReserved5 s
  | .reserved6 => Sys2Proof.Machine.execReserved6 s
  | .reserved7 => Sys2Proof.Machine.execReserved7 s

end Sys2Proof.Machine
end

