-- ==== Sys2Proof/Machine/Step.lean ====
section
/-! DEFINITION. One step: the command the host holds on the inputs is evaluated and its outputs are
sampled (rules R11, R15 and R110). -/

namespace Sys2Proof.Machine

/-- The command on the inputs is evaluated and the host samples its outputs, in one step (rule R110). There
is no program counter to advance (rule R11). This is the step of THIS block, in the form the host's
interface asks for; the step with the parameters as its argument (rule R16) is `stepWith`. -/
def step (s : State) : Host.Outcome State Fault Refusal := exec (decodePorts s.op s.din) s

/-- The command word of an opcode-table word put on the input ports, which is where the next step finds
its command: there is no other place a command comes from (rules R11 and R42; log entry 7). -/
def State.withFetchWord (s : State) (nbits w : Nat) : State :=
  s.present (opField (BitVec.ofNat 59 (w % 2 ^ nbits))) (dinField (BitVec.ofNat 59 (w % 2 ^ nbits)))

end Sys2Proof.Machine
end

