-- ==== Sys2Proof/Machine/Frames.lean ====
section
/-! DEFINITION. The device's register map (rule R21) and which of its bytes each frame carries
(rule R22). The device is not part of the block (rule R18): these are names and offsets, no state. -/

namespace Sys2Proof.Machine

/-- The registers of the device's map (rule R21). -/
inductive DeviceRegister where
  | seconds
  | minutes
  | hours
  | dayOfWeek
  | date
  | monthCentury
  | yearInCentury
  | control
  | scratch (offset : Nat)
deriving DecidableEq, Repr

/-- The register at a device offset: nine rows, none above 0x3F (rule R21). -/
def deviceRegisterAt (offset : Nat) : Option DeviceRegister :=
  match offset with
  | 0x00 => some .seconds
  | 0x01 => some .minutes
  | 0x02 => some .hours
  | 0x03 => some .dayOfWeek
  | 0x04 => some .date
  | 0x05 => some .monthCentury
  | 0x06 => some .yearInCentury
  | 0x07 => some .control
  | n => if n ≤ 0x3F then some (.scratch n) else none

/-- The device offset of read-frame byte `B[i]` (rule R22). -/
def readFrameOffset (i : Nat) : Option Nat := if i < 7 then some i else none

/-- The device offset write-frame byte `W[j]` is destined for: none for the pointer `W[0]`, and the
bytes after it go to successive offsets from the one the pointer names (rule R22). -/
def writeFrameOffset (p : Params) (j : Nat) : Option Nat :=
  if 1 ≤ j ∧ j < 8 then some (p.ptrSeconds.toNat + (j - 1)) else none

end Sys2Proof.Machine
end

