-- ==== Sys2Proof/Machine/Flags.lean ====
section
/-! DEFINITION. The one status indication: the level `ill` (rules R14 and R90). No operation computes a
carry, overflow, zero, sign or validity flag. -/

namespace Sys2Proof.Machine

/-- `ill` as a function of `op` and `HAS_FMT` alone (rule R90). -/
def illLevel (hasFmt : Bool) (op : OpCode) : Bool :=
  op == 5 || op == 6 || op == 7 || (op == 4 && !hasFmt)

end Sys2Proof.Machine
end

