-- ==== Sys2Proof/Machine/Parametric.lean ====
section
/-! DEFINITION. The step function with the parameters as its argument (rule R16): the machine for every
`HOUR12`, with and without the formatter, and for every value of rule R4's literals. -/

namespace Sys2Proof.Machine

/-- The meaning of a command on a block with parameters `p`. -/
def execWith (p : Params) (i : Instr) (s : State) : Host.Outcome State Fault Refusal :=
  match i with
  | .encbcd v => execEncbcd v s
  | .decbcd b => execDecbcd b s
  | .packt t => execPacktWith p t s
  | .unpkt f => execUnpktWith p f s
  | .fmtt t => execFmttWith p t s
  | .reserved5 => execReserved5 s
  | .reserved6 => execReserved6 s
  | .reserved7 => execReserved7 s

/-- One step of a block with parameters `p`: they are fixed for its life, no operation changes them, and they
are no field of the state (rule R16). -/
def stepWith (p : Params) (s : State) : Host.Outcome State Fault Refusal :=
  execWith p (decodePorts s.op s.din) s

end Sys2Proof.Machine
end

