-- ==== Sys2Proof/Machine/PortFunction.lean ====
section
/-! DEFINITION. The block as rule R15 writes it: one total function of the inputs and the parameters,
given by the case split of rule R41 straight on the ports, with no state and no decoder. -/

namespace Sys2Proof.Machine

/-- `(dout, ill) = F(op, din; HOUR12, HAS_FMT)` (rules R15 and R41). -/
def portFunction (p : Params) (op : OpCode) (din : Din) : Outputs :=
  if op = 0 then resultOutputs [enc (lane 0 din)]
  else if op = 1 then resultOutputs [dec (lane 0 din)]
  else if op = 2 then resultOutputs (writeFrameBytes (packFrame p (timeOfDin din)))
  else if op = 3 then resultOutputs (timeBytes (unpackFrame p (frameOfDin din)))
  else if op = 4 ∧ p.hasFmt = true then resultOutputs (formatTime p (timeOfDin din))
  else illegalOutputs

/-- What the output ports show in a state, at every moment and with no step needed: `F` of the inputs the
host holds there (rules R15, R17 and R100). -/
def State.outputs (p : Params) (s : State) : Outputs := portFunction p s.op s.din

/-- The output port `dout` (rule R13): no stored value (rule R10). -/
def State.dout (p : Params) (s : State) : Dout := (s.outputs p).dout

/-- The output port `ill` (rules R13 and R14): a level, no stored flag. -/
def State.ill (p : Params) (s : State) : Bool := (s.outputs p).ill

end Sys2Proof.Machine
end

