-- ==== Sys2Proof/Safety.lean ====
section
/-! DEFINITION. What claims are stated in: a host's session of commands, what makes it safe, and the
invariant of the safety record. -/

namespace Sys2Proof.Machine

/-- A command as the host presents it: what it puts on the two input ports (rule R13). -/
structure Command where
  op : OpCode
  din : Din
deriving DecidableEq, Repr

/-- The host presents the commands one after another to a block with parameters `p`, and samples the
outputs of each in one step (rules R11, R108 and R110): the state after the last, which holds the
samples in order. -/
def session (p : Params) : List Command → State → Host.Outcome State Fault Refusal
  | [], s => .next s
  | c :: cs, s =>
    match stepWith p (s.present c.op c.din) with
    | .next t => session p cs t
    | .fault r => .fault r
    | .refused r => .refused r

/-- No command with `ill` = 1 has been evaluated (rule R90): the run has not gone wrong. -/
def State.isSafe (s : State) : Bool := s.safetyRecord.isNone

/-- A command that selects an operation of a block with parameters `p` (rule R90). -/
def Command.isSafe (p : Params) (c : Command) : Bool := !illLevel p.hasFmt c.op

/-- The safety record is faithful to the run: it holds the fault exactly when a sample has `ill` = 1, and
such a sample has `dout` 0x00 (rules R43 and R90). -/
def State.coherent (s : State) : Prop :=
  (s.safetyRecord = some .illegalOperation ↔ ∃ o ∈ s.samples, o.ill = true) ∧
  ∀ o ∈ s.samples, o.ill = true → o.dout = 0

end Sys2Proof.Machine
end

