-- ==== Sys2Proof/Certificates/Slice0/Obligations.lean ====
section
/-! DEFINITION. The statements for the provers, from the spec's numbered rules. Where a clause rests on a
decision or a derivation the spec marks as its own, or on a log entry, the docstring names it. -/

open Sys2Proof Sys2Proof.Machine

/-! ## What each operation does -/

/-- Rule R50. ENCBCD, selected by op code 0 with its operand in `DI[0]`, answers a next state and the host
samples `DO[0]` by the formula of the rule, `DO[1]` to `DO[19]` 0x00 and `ill` 0. -/
def Obligations.EncbcdDrivesTensAndUnits : Prop :=
  (∀ din : Din, decodePorts 0 din = .encbcd (lane 0 din)) ∧
  ∀ (v : Byte) (s : State), ∃ (t : State) (o : Outputs),
    exec (.encbcd v) s = .next t ∧ t.samples = s.samples ++ [o] ∧
    (lane 0 o.dout).toNat = ((v.toNat / 10 % 10) <<< 4 ||| v.toNat % 10) ∧
    (∀ i, 1 ≤ i → i < 20 → lane i o.dout = 0) ∧ o.ill = false

/-- Rule R53. DECBCD, selected by op code 1 with its operand in `DI[0]`, answers a next state and the host
samples as `DO[0]` ten times the high nibble plus the low nibble, for every byte; the rest of `dout` is
0x00. -/
def Obligations.DecbcdAddsTenTimesHighNibble : Prop :=
  (∀ din : Din, decodePorts 1 din = .decbcd (lane 0 din)) ∧
  ∀ (b : Byte) (s : State), ∃ (t : State) (o : Outputs),
    exec (.decbcd b) s = .next t ∧ t.samples = s.samples ++ [o] ∧
    (lane 0 o.dout).toNat = (b.extractLsb' 4 4).toNat * 10 + (b.extractLsb' 0 4).toNat ∧
    (∀ i, 1 ≤ i → i < 20 → lane i o.dout = 0) ∧ o.ill = false

/-- Rule R60. PACKT, selected by op code 2 with its time value in `DI[0]` to `DI[5]`, answers a next state
and the host samples as `DO[0]` to `DO[7]` the write frame of the rule, for every time value; the rest of
`dout` is 0x00. For a year of 200 to 255 the century bit is the spec's decision D10, which rule R60 writes
out. -/
def Obligations.PacktDrivesWriteFrame : Prop :=
  (∀ din : Din, decodePorts 2 din =
    .packt ⟨lane 0 din, lane 1 din, lane 2 din, lane 3 din, lane 4 din, lane 5 din⟩) ∧
  ∀ (T : TimeValue) (s : State), ∃ (t : State) (o : Outputs),
    exec (.packt T) s = .next t ∧ t.samples = s.samples ++ [o] ∧
    lane 0 o.dout = 0x00#8 ∧
    lane 1 o.dout = enc T.second ∧
    lane 2 o.dout = enc T.minute ∧
    lane 3 o.dout = enc T.hour ∧
    lane 4 o.dout = 0x01#8 ∧
    lane 5 o.dout = enc T.day ∧
    lane 6 o.dout = ((if 100 ≤ T.year.toNat then 1#8 else 0#8) <<< 7 ||| enc T.month) ∧
    lane 7 o.dout = enc (BitVec.ofNat 8 (T.year.toNat % 100)) ∧
    (∀ i, 8 ≤ i → i < 20 → lane i o.dout = 0) ∧ o.ill = false

/-- Rule R66. UNPKT, selected by op code 3 with its read frame in `DI[0]` to `DI[6]`, answers a next state
and the host samples as `DO[0]` to `DO[5]` the time value of the rule, for every frame; `HOUR12` is free.
The 8-bit width of the year sum is the spec's decision D9, which rule R66 writes out. -/
def Obligations.UnpktDrivesTimeValue : Prop :=
  (∀ din : Din, decodePorts 3 din = .unpkt
    ⟨lane 0 din, lane 1 din, lane 2 din, lane 3 din, lane 4 din, lane 5 din, lane 6 din⟩) ∧
  ∀ (B : ReadFrame) (s : State), ∃ (t : State) (o : Outputs),
    exec (.unpkt B) s = .next t ∧ t.samples = s.samples ++ [o] ∧
    (lane 0 o.dout).toNat = (100 * (B.b5.getLsbD 7).toNat + (dec B.b6).toNat) % 256 ∧
    lane 1 o.dout = dec (B.b5 &&& 0x1F#8) ∧
    lane 2 o.dout = dec B.b4 ∧
    lane 3 o.dout = (if B.b2.getLsbD 6 then Config.hour12 B.b2 else dec B.b2) ∧
    lane 4 o.dout = dec B.b1 ∧
    lane 5 o.dout = dec B.b0 ∧
    (∀ i, 6 ≤ i → i < 20 → lane i o.dout = 0) ∧ o.ill = false

/-- FMTT, selected by op code 4, answers a next state and the host samples the twenty bytes of the string,
for every time value: the layout is rule R80's, the year rule R81's, and the two digits of a field rule
R82's, which for a field of 100 or more marks them the spec's own choice (decision D13, log entry 10). The
block has its formatter (rule R5, decision D12, log entry 6). -/
def Obligations.FmttDrivesString : Prop :=
  (∀ din : Din, decodePorts 4 din =
    .fmtt ⟨lane 0 din, lane 1 din, lane 2 din, lane 3 din, lane 4 din, lane 5 din⟩) ∧
  ∀ (T : TimeValue) (s : State), ∃ (t : State) (o : Outputs),
    exec (.fmtt T) s = .next t ∧ t.samples = s.samples ++ [o] ∧
    (lane 0 o.dout).toNat = 0x30 + (2000 + T.year.toNat) / 1000 % 10 ∧
    (lane 1 o.dout).toNat = 0x30 + (2000 + T.year.toNat) / 100 % 10 ∧
    (lane 2 o.dout).toNat = 0x30 + (2000 + T.year.toNat) / 10 % 10 ∧
    (lane 3 o.dout).toNat = 0x30 + (2000 + T.year.toNat) % 10 ∧
    lane 4 o.dout = 0x2D#8 ∧
    (lane 5 o.dout).toNat = 0x30 + T.month.toNat / 10 ∧ (lane 6 o.dout).toNat = 0x30 + T.month.toNat % 10 ∧
    lane 7 o.dout = 0x2D#8 ∧
    (lane 8 o.dout).toNat = 0x30 + T.day.toNat / 10 ∧ (lane 9 o.dout).toNat = 0x30 + T.day.toNat % 10 ∧
    lane 10 o.dout = 0x54#8 ∧
    (lane 11 o.dout).toNat = 0x30 + T.hour.toNat / 10 ∧ (lane 12 o.dout).toNat = 0x30 + T.hour.toNat % 10 ∧
    lane 13 o.dout = 0x3A#8 ∧
    (lane 14 o.dout).toNat = 0x30 + T.minute.toNat / 10 ∧
    (lane 15 o.dout).toNat = 0x30 + T.minute.toNat % 10 ∧
    lane 16 o.dout = 0x3A#8 ∧
    (lane 17 o.dout).toNat = 0x30 + T.second.toNat / 10 ∧
    (lane 18 o.dout).toNat = 0x30 + T.second.toNat % 10 ∧
    lane 19 o.dout = 0x00#8 ∧ o.ill = false

/-- Rules R43 and R90 (the spec's decision D6). Each reserved code answers a next state in which the host
has sampled `dout` all 0x00 and `ill` 1, the inputs are unchanged, and the event is in the model's own
safety record (log entry 4). -/
def Obligations.ReservedCodesDriveZeroAndIll : Prop :=
  ∀ (i : Instr) (s : State), i = .reserved5 ∨ i = .reserved6 ∨ i = .reserved7 →
    exec i s = .next
      { s with samples := s.samples ++ [⟨0, true⟩], safetyRecord := some .illegalOperation }

/-- Rule R44. An operation, whatever its operands, answers a next state and the host samples `ill` 0 and the
outputs that the operation's rule gives, as the function `F` of the command's own op code and operand bytes.
-/
def Obligations.NoOperandValueIsIllegal : Prop :=
  ∀ (i : Instr) (s : State), i.isOperation thisBlock.hasFmt = true →
    ∃ (t : State) (o : Outputs), exec i s = .next t ∧ t.samples = s.samples ++ [o] ∧ o.ill = false ∧
      o = portFunction thisBlock (opCodeOf i) (dinOf i)

/-- The frame of every command (rules R10, R12, R14 and R108; the model's choice of fields, log entries 1, 2
and 4). It answers a next state in which the block's own state and the inputs are as before, the host has
exactly one sample more, an operation leaves the safety record as it was, and a reserved code enters its
fault there. -/
def Obligations.EveryCommandKeepsInputsAndRecord : Prop :=
  ∀ (i : Instr) (s : State), ∃ (t : State) (o : Outputs), exec i s = .next t ∧
    t.block = s.block ∧ t.op = s.op ∧ t.din = s.din ∧ t.samples = s.samples ++ [o] ∧
    t.safetyRecord =
      if i.isOperation thisBlock.hasFmt then s.safetyRecord else some .illegalOperation

/-! ## The step, the ports and the decoder -/

/-- A step runs the decoded command and adds nothing to it: there is no program counter to move (rule R11).
-/
def Obligations.StepRunsDecodedCommand : Prop :=
  ∀ s : State, step s = exec (decodePorts s.op s.din) s

/-- Placing an opcode-table word where the step finds its command makes the next step run the instruction
the decoder reads from that word (rule R42; log entries 7 and 8). -/
def Obligations.PlacedWordIsTheCommandRun : Prop :=
  ∀ (s : State) (nbits w : Nat) (i : Instr), decodeTableWord nbits w = some i →
    step (s.withFetchWord nbits w) = exec i (s.withFetchWord nbits w)

/-- Rules R15 and R16 (the spec's decision D1). For every setting of the parameters and from every state, a
step answers the next state whose one new sample is the total function `F` of the inputs; the inputs are
unchanged and the safety record (log entry 4) keeps a raised `ill`. -/
def Obligations.StepComputesPortFunction : Prop :=
  ∀ (p : Params) (s : State), stepWith p s = .next
    { s with
      samples := s.samples ++ [portFunction p s.op s.din]
      safetyRecord :=
        if (portFunction p s.op s.din).ill then some .illegalOperation else s.safetyRecord }

/-- Rules R14 and R90 (decision D6). For every setting of the parameters `ill` is a function of `op` and
`HAS_FMT` alone, raised exactly for 5, 6, 7 and for 4 without a formatter, and `dout` is then 0x00. -/
def Obligations.IllDependsOnOpAlone : Prop :=
  ∀ (p : Params) (op : OpCode) (din : Din),
    ((portFunction p op din).ill = true ↔ op = 5 ∨ op = 6 ∨ op = 7 ∨ (op = 4 ∧ p.hasFmt = false)) ∧
    ((portFunction p op din).ill = true → (portFunction p op din).dout = 0)

/-- Rule R86 (decision D12). Without a formatter a step on op code 4 takes the illegal-operation condition,
and on any other op code a step is the same with and without it. -/
def Obligations.AbsentFormatterChangesOnlyOpFour : Prop :=
  ∀ (p : Params) (present : Bool) (s : State) (T : TimeValue),
    fmttOutputs { p with hasFmt := false } T = illegalOutputs ∧
    (s.op = 4 → stepWith { p with hasFmt := false } s = .next (raiseIllegal s)) ∧
    (s.op ≠ 4 → stepWith { p with hasFmt := present } s = stepWith p s)

/-- Rule R10, its last sentence. What the output ports show and what a step samples does not depend on what
was sampled or recorded before: two states with equal inputs give equal outputs. -/
def Obligations.NoCommandObservesThePast : Prop :=
  ∀ (p : Params) (s₁ s₂ : State), s₁.op = s₂.op → s₁.din = s₂.din →
    s₁.outputs p = s₂.outputs p ∧
    ∃ (t₁ t₂ : State) (o : Outputs), stepWith p s₁ = .next t₁ ∧ stepWith p s₂ = .next t₂ ∧
      t₁.samples = s₁.samples ++ [o] ∧ t₂.samples = s₂.samples ++ [o]

/-- Rules R41 and R93 (decisions D4 and D15). An operand byte that the operation does not read is a
don't-care: two `din` that agree on the bytes the op code reads give the same outputs, and a reserved op
code reads none. -/
def Obligations.UnreadOperandBytesDoNotMatter : Prop :=
  ∀ (op : OpCode) (d₁ d₂ : Din),
    (op = 0 ∨ op = 1 → lane 0 d₁ = lane 0 d₂) →
    (op = 2 ∨ op = 4 → ∀ i, i < 6 → lane i d₁ = lane i d₂) →
    (op = 3 → ∀ i, i < 7 → i ≠ 3 → lane i d₁ = lane i d₂) →
    ∀ s : State, ∃ (t₁ t₂ : State) (o : Outputs),
      step (s.present op d₁) = .next t₁ ∧ step (s.present op d₂) = .next t₂ ∧
      t₁.samples = s.samples ++ [o] ∧ t₂.samples = s.samples ++ [o]

/-- Rule R42 (decision D18) and log entry 9. Decoding the command word of any command gives the command
back, with every operand at every value; its eight bytes do the same. -/
def Obligations.DecodeOfEncodeIsIdentity : Prop :=
  ∀ i : Instr, decode (encode i) = i ∧ decodeBytes (encodeBytes i) = .ok i

/-- Rule R42 (decision D18) and log entry 9. Encoding what a command word decodes to gives the word back
with the don't-care bits cleared: no operand bit and no op-code bit is lost. -/
def Obligations.EncodeOfDecodeClearsOnlyDontCares : Prop :=
  ∀ cw : CommandWord, encode (decode cw) = (dinField cw &&& operandMask (opField cw)) ++ opField cw

/-- Log entry 8 (the model's choice of bytes for rule R42's word). Bytes decode exactly when they are a
command word: eight of them, nothing above bit 58. -/
def Obligations.OnlyCommandWordsDecode : Prop :=
  ∀ bs : List Byte, (∃ i, decodeBytes bs = .ok i) ↔ bs.length = 8 ∧ (bs.getD 7 0).toNat < 8

/-- Command words of the spec's vectors (ENCBCD 45, DECBCD 0x45, K2, U2, F1 and section 8) decode to the
commands they stand for. -/
def Obligations.VectorWordsDecode : Prop :=
  decode 0x000000000000168 = .encbcd 45 ∧
  decode 0x000000000000229 = .decbcd 0x45 ∧
  decode 0x001D9D8B8F8634A = .packt ⟨105, 12, 31, 23, 59, 59⟩ ∧
  decode 0x02C9188091ACACB = .unpkt ⟨0x59, 0x59, 0x23, 0x01, 0x31, 0x92, 0x05⟩ ∧
  decode 0x0000018483828BC = .fmtt ⟨23, 5, 7, 9, 3, 0⟩ ∧
  decode 0x000000000000005 = .reserved5 ∧
  decode 0x00000000000022E = .reserved6 ∧
  decode 0x7FFFFFFFFFFFFFF = .reserved7

/-! ## The invariant, reset and sessions -/

/-- Rules R43 and R90 (decision D6; the record and the samples are the model's, log entries 2 and 4). The
invariant of the safety record: a step from a coherent state, of this block or of a block with any other
parameters, leaves a coherent one (the record holds the fault exactly when some sample has `ill` = 1, and
such a sample has `dout` 0x00) and never clears the record. -/
def Obligations.StepKeepsCoherence : Prop :=
  (∀ s t : State, s.coherent → step s = .next t → t.coherent ∧ (s.isSafe = false → t.isSafe = false)) ∧
  ∀ (p : Params) (s t : State), s.coherent → stepWith p s = .next t →
    t.coherent ∧ (s.isSafe = false → t.isSafe = false)

/-- Rules R17 and R101. The state a run starts from is coherent and safe, and its output ports show `F` of
its inputs; that its inputs are 0 is the model's choice (log entry 3). -/
def Obligations.ResetIsCoherentAndSafe : Prop :=
  State.reset.coherent ∧ State.reset.isSafe = true ∧
  State.reset.outputs thisBlock = portFunction thisBlock State.reset.op State.reset.din ∧
  State.reset.dout thisBlock = 0 ∧ State.reset.ill thisBlock = false

/-- Rules R15 and R27. A session of any commands, from any state and for every setting of the parameters,
answers a next state, and its new samples are `F` of the commands one by one, whatever the state was. -/
def Obligations.SessionSamplesEachCommandAlone : Prop :=
  ∀ (p : Params) (cs : List Command) (s : State), ∃ t : State,
    session p cs s = .next t ∧ t.samples = s.samples ++ cs.map (fun c => portFunction p c.op c.din)

/-- Rule R90. After a session the model's safety record (log entry 4) is clear exactly when it was clear
before and every command selected an operation: the last command cannot hide an earlier fault. -/
def Obligations.SessionIsSafeExactlyWithoutReserved : Prop :=
  ∀ (p : Params) (cs : List Command) (s t : State), session p cs s = .next t →
    (t.isSafe = true ↔ s.isSafe = true ∧ ∀ c ∈ cs, c.isSafe p = true)

/-- Rule R27. Presenting the same commands in another order gives each command the same result: the pairs of
a command and its sample are the same up to order. -/
def Obligations.CommandOrderDoesNotMatter : Prop :=
  ∀ (p : Params) (cs ds : List Command) (s s' t t' : State) (outs outs' : List Outputs), cs.Perm ds →
    session p cs s = .next t → t.samples = s.samples ++ outs →
    session p ds s' = .next t' → t'.samples = s'.samples ++ outs' →
    (cs.zip outs).Perm (ds.zip outs')

/-- Rules R90 and R94 (decisions D6 and D15), program P5. A reserved command between two presentations of a
command, whatever its `din` holds, changes nothing for the second; only the model's safety record (log entry
4) still holds it. -/
def Obligations.ReservedCommandLeavesNoTrace : Prop :=
  ∀ (p : Params) (c : Command) (op : OpCode) (din : Din) (s : State), op = 5 ∨ op = 6 ∨ op = 7 →
    ∃ (t : State) (o : Outputs), session p [c, ⟨op, din⟩, c] s = .next t ∧
      t.samples = s.samples ++ [o, ⟨0, true⟩, o] ∧ t.isSafe = false

/-! ## Laws of the codec -/

/-- Rule R51. A value of 100 or more encodes as its remainder modulo 100. -/
def Obligations.EncbcdWrapsModulo100 : Prop :=
  ∀ (v : Byte) (s : State), exec (.encbcd v) s = exec (.encbcd (BitVec.ofNat 8 (v.toNat % 100))) s

/-- Rule R52 (derived in the spec). An encoded byte is packed BCD, and its high bits are set exactly for the
remainders the rule gives. -/
def Obligations.EncodedByteIsBcd : Prop :=
  ∀ v : Byte, isBcd (enc v) = true ∧
    ((enc v).getLsbD 7 = true ↔ 80 ≤ v.toNat % 100) ∧
    ((enc v).getLsbD 6 = true ↔ 40 ≤ v.toNat % 100 ∧ v.toNat % 100 ≤ 79) ∧
    ((enc v).toNat < 32 ↔ v.toNat % 100 ≤ 19)

/-- Rule R55 (derived in the spec). ENCBCD then DECBCD of its result gives the value modulo 100, and so the
value itself up to 99. -/
def Obligations.EncodeThenDecodeIsModulo100 : Prop :=
  ∀ (v : Byte) (s : State), ∃ (t u : State) (o r : Outputs),
    exec (.encbcd v) s = .next t ∧ t.samples = s.samples ++ [o] ∧
    step (t.present 1 (dinOfByte o.dout)) = .next u ∧ u.samples = t.samples ++ [r] ∧
    (lane 0 r.dout).toNat = v.toNat % 100 ∧ (v.toNat ≤ 99 → lane 0 r.dout = v)

/-- Rule R56 (derived in the spec). DECBCD then ENCBCD of its result gives a packed-BCD byte, the byte
itself exactly when that was packed BCD, and a second round trip changes nothing. -/
def Obligations.DecodeThenEncodeFixesExactlyBcd : Prop :=
  ∀ (b : Byte) (s : State), ∃ (t u : State) (o r : Outputs),
    exec (.decbcd b) s = .next t ∧ t.samples = s.samples ++ [o] ∧
    step (t.present 0 (dinOfByte o.dout)) = .next u ∧ u.samples = t.samples ++ [r] ∧
    isBcd (lane 0 r.dout) = true ∧ (lane 0 r.dout = b ↔ isBcd b = true) ∧
    ∃ (t' u' : State) (o' r' : Outputs),
      exec (.decbcd (lane 0 r.dout)) u = .next t' ∧ t'.samples = u.samples ++ [o'] ∧
      step (t'.present 0 (dinOfByte o'.dout)) = .next u' ∧ u'.samples = t'.samples ++ [r'] ∧
      lane 0 r'.dout = lane 0 r.dout

/-! ## Laws of the packer -/

/-- Rule R65. `W[0]` and `W[4]` are the constants 0x00 and 0x01, whatever the time value and whatever was
sampled before, and the frame depends on the time value alone. -/
def Obligations.PackedConstantBytes : Prop :=
  ∀ (T : TimeValue) (s₁ s₂ : State), ∃ (t₁ t₂ : State) (o : Outputs),
    exec (.packt T) s₁ = .next t₁ ∧ t₁.samples = s₁.samples ++ [o] ∧
    exec (.packt T) s₂ = .next t₂ ∧ t₂.samples = s₂.samples ++ [o] ∧
    lane 0 o.dout = 0x00#8 ∧ lane 4 o.dout = 0x01#8

/-- Rule R61. The hour is packed as its BCD byte: up to 0x23 with bit 6 clear for an hour of 0 to 23, which
UNPKT of the frame reads back in 24-hour mode, and with bit 6 set exactly for a remainder of 40 to 79, where
UNPKT takes the 12-hour branch. -/
def Obligations.PackedHourIsTwentyFourHour : Prop :=
  ∀ (T : TimeValue) (s : State), ∃ (t u : State) (o r : Outputs),
    exec (.packt T) s = .next t ∧ t.samples = s.samples ++ [o] ∧
    lane 3 o.dout = enc T.hour ∧
    (T.hour.toNat ≤ 23 → (lane 3 o.dout).toNat ≤ 0x23 ∧ (lane 3 o.dout).getLsbD 6 = false) ∧
    ((lane 3 o.dout).getLsbD 6 = true ↔ 40 ≤ T.hour.toNat % 100 ∧ T.hour.toNat % 100 ≤ 79) ∧
    step (t.present 3 (dinOfWriteFrame o.dout)) = .next u ∧ u.samples = t.samples ++ [r] ∧
    (T.hour.toNat ≤ 23 → lane 3 r.dout = T.hour) ∧
    (40 ≤ T.hour.toNat % 100 ∧ T.hour.toNat % 100 ≤ 79 → lane 3 r.dout = Config.hour12 (enc T.hour))

/-- Rule R62 (for years 200 to 255 the spec's decision D10). The year byte is `ENC` of the whole year, and
for a month that does not spill the century bit is set exactly from 100 on, so a year of 200 or more reads
back 100 less. -/
def Obligations.PackedYearAndCentury : Prop :=
  ∀ (T : TimeValue) (s : State), ∃ (t u : State) (o r : Outputs),
    exec (.packt T) s = .next t ∧ t.samples = s.samples ++ [o] ∧
    lane 7 o.dout = enc T.year ∧
    (T.month.toNat % 100 ≤ 79 → ((lane 6 o.dout).getLsbD 7 = true ↔ 100 ≤ T.year.toNat)) ∧
    step (t.present 3 (dinOfWriteFrame o.dout)) = .next u ∧ u.samples = t.samples ++ [r] ∧
    (T.month.toNat % 100 ≤ 79 → (lane 0 r.dout).toNat =
      if 200 ≤ T.year.toNat then T.year.toNat - 100 else T.year.toNat)

/-- Rule R64 (derived in the spec). Up to a remainder of 19 the month leaves bits 6:5 clear; above, they
take bits 2:1 of its tens digit; from 80 on bit 7 is set whatever the year. -/
def Obligations.PackedMonthSpills : Prop :=
  ∀ (T : TimeValue) (s : State), ∃ (t : State) (o : Outputs),
    exec (.packt T) s = .next t ∧ t.samples = s.samples ++ [o] ∧
    (lane 6 o.dout).toNat % 32 = T.month.toNat / 10 % 2 * 16 + T.month.toNat % 10 ∧
    (lane 6 o.dout).toNat / 32 % 4 = T.month.toNat / 10 % 10 / 2 % 4 ∧
    (T.month.toNat % 100 ≤ 19 → (lane 6 o.dout).toNat / 32 % 4 = 0) ∧
    (80 ≤ T.month.toNat % 100 → (lane 6 o.dout).getLsbD 7 = true)

/-- Rule R67. Bit 6 of the hour byte alone selects the branch; in 24-hour mode the whole byte is read as
packed BCD, which gives 0 to 23 for a packed-BCD byte up to 0x23, and the hours that branch can give are 0
to 45 and 80 to 125. -/
def Obligations.HourBranchIsBitSix : Prop :=
  (∀ (B : ReadFrame) (s : State), ∃ (t : State) (o : Outputs),
    exec (.unpkt B) s = .next t ∧ t.samples = s.samples ++ [o] ∧
    (B.b2.getLsbD 6 = true → lane 3 o.dout = Config.hour12 B.b2) ∧
    (B.b2.getLsbD 6 = false → lane 3 o.dout = dec B.b2) ∧
    (isBcd B.b2 = true → B.b2.toNat ≤ 0x23 → (lane 3 o.dout).toNat ≤ 23)) ∧
  ∀ h : Byte,
    (∃ (B : ReadFrame) (s t : State) (o : Outputs), B.b2.getLsbD 6 = false ∧
      exec (.unpkt B) s = .next t ∧ t.samples = s.samples ++ [o] ∧ lane 3 o.dout = h) ↔
    h.toNat ≤ 45 ∨ (80 ≤ h.toNat ∧ h.toNat ≤ 125)

/-- Rule R69. The month is ten times bit 4 plus the low nibble of `B[5]`, 0 to 25; bits 6:5 of `B[5]` have
no effect on any field. -/
def Obligations.UnpackedMonthIsMasked : Prop :=
  ∀ (B : ReadFrame) (m : Byte) (s : State), m &&& 0x9F#8 = 0 → ∃ (t : State) (o : Outputs),
    exec (.unpkt B) s = .next t ∧ t.samples = s.samples ++ [o] ∧
    (lane 1 o.dout).toNat = 10 * (B.b5.getLsbD 4).toNat + (B.b5.extractLsb' 0 4).toNat ∧
    (lane 1 o.dout).toNat ≤ 25 ∧
    exec (.unpkt { B with b5 := B.b5 ^^^ m }) s = .next t

/-- Rule R70 (the spec's decision D9 where the sum passes 255). A packed-BCD year byte gives 0 to 99 or 100
to 199 by the century bit; the sum passes 255 only with the century bit set and a year byte from 0xF6 on,
and then keeps 0 to 9. -/
def Obligations.UnpackedYearBounds : Prop :=
  ∀ (B : ReadFrame) (s : State), ∃ (t : State) (o : Outputs),
    exec (.unpkt B) s = .next t ∧ t.samples = s.samples ++ [o] ∧
    (isBcd B.b6 = true → (lane 0 o.dout).toNat = 100 * (B.b5.getLsbD 7).toNat + (dec B.b6).toNat ∧
      (lane 0 o.dout).toNat ≤ 199) ∧
    (B.b5.getLsbD 7 = true ∧ 0xF6 ≤ B.b6.toNat ↔ 255 < 100 * (B.b5.getLsbD 7).toNat + (dec B.b6).toNat) ∧
    (B.b5.getLsbD 7 = true ∧ 0xF6 ≤ B.b6.toNat → (lane 0 o.dout).toNat = B.b6.toNat - 0xF6)

/-- Rule R71 (derived in the spec). `B[3]` reaches no field; every bit of the frame other than those of
`B[3]`, bits 6:5 of `B[5]` and the mode bit reaches one: flipping it changes the result. Stated for 24-hour
frames, since the rule says nothing of `HOUR12`. -/
def Obligations.UnpackReadsEveryOtherBit : Prop :=
  ∀ (B : ReadFrame) (s : State) (x : Byte) (k : Nat), B.b2.getLsbD 6 = false → k < 8 →
    ∃ t : State, exec (.unpkt B) s = .next t ∧
      exec (.unpkt { B with b3 := x }) s = .next t ∧
      exec (.unpkt { B with b0 := B.b0 ^^^ (1#8 <<< k) }) s ≠ .next t ∧
      exec (.unpkt { B with b1 := B.b1 ^^^ (1#8 <<< k) }) s ≠ .next t ∧
      (k ≠ 6 → exec (.unpkt { B with b2 := B.b2 ^^^ (1#8 <<< k) }) s ≠ .next t) ∧
      exec (.unpkt { B with b4 := B.b4 ^^^ (1#8 <<< k) }) s ≠ .next t ∧
      (k ≠ 5 → k ≠ 6 → exec (.unpkt { B with b5 := B.b5 ^^^ (1#8 <<< k) }) s ≠ .next t) ∧
      exec (.unpkt { B with b6 := B.b6 ^^^ (1#8 <<< k) }) s ≠ .next t

/-- Rule R72 (derived in the spec). The ranges of the fields UNPKT gives, over all frames and over 24-hour
packed-BCD frames. -/
def Obligations.UnpackedRanges : Prop :=
  ∀ (B : ReadFrame) (s : State), ∃ (t : State) (o : Outputs),
    exec (.unpkt B) s = .next t ∧ t.samples = s.samples ++ [o] ∧
    (lane 1 o.dout).toNat ≤ 25 ∧ (lane 2 o.dout).toNat ≤ 165 ∧
    (lane 4 o.dout).toNat ≤ 165 ∧ (lane 5 o.dout).toNat ≤ 165 ∧
    (B.isBcd24 = true →
      (lane 0 o.dout).toNat ≤ 199 ∧ (lane 1 o.dout).toNat ≤ 19 ∧ (lane 2 o.dout).toNat ≤ 99 ∧
      ((lane 3 o.dout).toNat ≤ 39 ∨ (80 ≤ (lane 3 o.dout).toNat ∧ (lane 3 o.dout).toNat ≤ 99)) ∧
      (lane 4 o.dout).toNat ≤ 99 ∧ (lane 5 o.dout).toNat ≤ 99)

/-- Rule R106, its last but one sentence. The fields other than the hour are unaffected by the hour byte, in
either mode. -/
def Obligations.OtherFieldsIgnoreTheHourByte : Prop :=
  ∀ (B : ReadFrame) (b : Byte) (s : State), ∃ (t u : State) (o r : Outputs),
    exec (.unpkt B) s = .next t ∧ t.samples = s.samples ++ [o] ∧
    exec (.unpkt { B with b2 := b }) s = .next u ∧ u.samples = s.samples ++ [r] ∧
    ∀ i, i < 20 → i ≠ 3 → lane i o.dout = lane i r.dout

/-- Rule R73 (derived in the spec). PACKT, then UNPKT of the frame without its pointer byte, gives each
field by the formulas of the rule, for every time value and every `HOUR12`. -/
def Obligations.PackThenUnpackFields : Prop :=
  ∀ (T : TimeValue) (s : State), ∃ (t u : State) (o r : Outputs),
    exec (.packt T) s = .next t ∧ t.samples = s.samples ++ [o] ∧
    step (t.present 3 (dinOfWriteFrame o.dout)) = .next u ∧ u.samples = t.samples ++ [r] ∧ r.ill = false ∧
    (lane 0 r.dout).toNat =
      (100 * (if 100 ≤ T.year.toNat ∨ 80 ≤ T.month.toNat % 100 then 1 else 0) + T.year.toNat % 100) % 256 ∧
    (lane 1 r.dout).toNat = 10 * (T.month.toNat / 10 % 10 % 2) + T.month.toNat % 10 ∧
    (lane 2 r.dout).toNat = T.day.toNat % 100 ∧
    lane 3 r.dout =
      (if 40 ≤ T.hour.toNat % 100 ∧ T.hour.toNat % 100 ≤ 79 then Config.hour12 (enc T.hour)
        else BitVec.ofNat 8 (T.hour.toNat % 100)) ∧
    (lane 4 r.dout).toNat = T.minute.toNat % 100 ∧
    (lane 5 r.dout).toNat = T.second.toNat % 100

/-- Rule R73, its last sentence (derived in the spec). Within the ranges of that rule, which include the
intended ranges of rule R33, UNPKT of the packed frame gives the time value back. -/
def Obligations.PackThenUnpackIsIdentityInRange : Prop :=
  (∀ T : TimeValue, T.inRange = true → T.packable = true) ∧
  ∀ (T : TimeValue) (s : State), T.packable = true → ∃ (t u : State) (o r : Outputs),
    exec (.packt T) s = .next t ∧ t.samples = s.samples ++ [o] ∧
    step (t.present 3 (dinOfWriteFrame o.dout)) = .next u ∧ u.samples = t.samples ++ [r] ∧
    timeOfDin (dinOfTime 0 r.dout) = T

/-- Rule R74 (derived in the spec). UNPKT, then PACKT of the result, gives back each frame byte under the
conditions of the rule; the day of week becomes 1 whatever it was, and a 12-hour hour byte is packed as
`ENC` of `HOUR12`. -/
def Obligations.UnpackThenPackBytes : Prop :=
  ∀ (B : ReadFrame) (d6 : Byte) (s : State), ∃ (t u : State) (o r : Outputs),
    exec (.unpkt B) s = .next t ∧ t.samples = s.samples ++ [o] ∧
    step (t.present 2 (dinOfTime d6 o.dout)) = .next u ∧ u.samples = t.samples ++ [r] ∧
    (isBcd B.b0 = true → lane 1 r.dout = B.b0) ∧
    (isBcd B.b1 = true → lane 2 r.dout = B.b1) ∧
    (isBcd B.b2 = true → B.b2.getLsbD 6 = false → lane 3 r.dout = B.b2) ∧
    (B.b2.getLsbD 6 = true → lane 3 r.dout = enc (Config.hour12 B.b2)) ∧
    lane 4 r.dout = 0x01#8 ∧
    (isBcd B.b4 = true → lane 5 r.dout = B.b4) ∧
    (B.b5 &&& 0x60#8 = 0 → isBcd (B.b5 &&& 0x1F#8) = true → isBcd B.b6 = true → lane 6 r.dout = B.b5) ∧
    (isBcd B.b6 = true → lane 7 r.dout = B.b6)

/-- Rule R41 (decision D4). The result of UNPKT, fed back with any `DI[6]`, is the operand of PACKT and of
FMTT, and the write frame without its pointer byte is the operand of UNPKT. -/
def Obligations.ResultsFeedBackAsOperands : Prop :=
  ∀ (B : ReadFrame) (T : TimeValue) (d6 : Byte) (s : State), ∃ (t u : State) (o r : Outputs),
    exec (.unpkt B) s = .next t ∧ t.samples = s.samples ++ [o] ∧
    exec (.packt T) s = .next u ∧ u.samples = s.samples ++ [r] ∧
    decodePorts 2 (dinOfTime d6 o.dout) = .packt (unpackFrame thisBlock B) ∧
    decodePorts 4 (dinOfTime d6 o.dout) = .fmtt (unpackFrame thisBlock B) ∧
    decodePorts 3 (dinOfWriteFrame r.dout) = .unpkt (readBack (packFrame thisBlock T))

/-- Rule R22. Write-frame byte `W[i+1]` and read-frame byte `B[i]` are the same device register, at offset
`i`, and a frame read back holds at `B[i]` what was written as `W[i+1]`; `W[0]` is the pointer 0x00, the
offset of the seconds register, and has no offset of its own. -/
def Obligations.FramesNameTheSameRegisters : Prop :=
  (∀ i, i < 7 → writeFrameOffset thisBlock (i + 1) = some i ∧ readFrameOffset i = some i) ∧
  (∀ (w : WriteFrame) (i : Nat), i < 7 →
    (readFrameBytes (readBack w)).getD i 0 = (writeFrameBytes w).getD (i + 1) 0) ∧
  (∀ T : TimeValue, (packFrame thisBlock T).w0 = 0x00#8) ∧
  writeFrameOffset thisBlock 0 = none ∧ deviceRegisterAt 0 = some .seconds

/-! ## Laws of the formatter -/

/-- Rule R81. The first four characters are decimal digits whose number is 2000 + year below 100 and 2100 +
(year − 100) from 100 on; the first is '2' and the second '0', '1' or '2'. -/
def Obligations.FormattedYearIsCalendarYear : Prop :=
  ∀ (T : TimeValue) (s : State), ∃ (t : State) (o : Outputs),
    exec (.fmtt T) s = .next t ∧ t.samples = s.samples ++ [o] ∧
    (∀ i, i < 4 → 0x30 ≤ (lane i o.dout).toNat ∧ (lane i o.dout).toNat ≤ 0x39) ∧
    1000 * ((lane 0 o.dout).toNat - 0x30) + 100 * ((lane 1 o.dout).toNat - 0x30) +
      10 * ((lane 2 o.dout).toNat - 0x30) + ((lane 3 o.dout).toNat - 0x30) =
      (if T.year.toNat < 100 then 2000 + T.year.toNat else 2100 + (T.year.toNat - 100)) ∧
    lane 0 o.dout = 0x32#8 ∧ (lane 1 o.dout).toNat ≤ 0x32

/-- Rules R82 and R83 (for a field of 100 or more the spec's decision D13). The separators and the
terminator are constants whatever the time value; when every two-digit field is at most 99, every other
character is a decimal digit. -/
def Obligations.FormattedStringHasFixedShape : Prop :=
  ∀ (T : TimeValue) (s : State), ∃ (t : State) (o : Outputs),
    exec (.fmtt T) s = .next t ∧ t.samples = s.samples ++ [o] ∧
    lane 4 o.dout = 0x2D#8 ∧ lane 7 o.dout = 0x2D#8 ∧ lane 10 o.dout = 0x54#8 ∧
    lane 13 o.dout = 0x3A#8 ∧ lane 16 o.dout = 0x3A#8 ∧ lane 19 o.dout = 0x00#8 ∧
    (T.printable = true → ∀ i, i < 19 → i ≠ 4 → i ≠ 7 → i ≠ 10 → i ≠ 13 → i ≠ 16 →
      0x30 ≤ (lane i o.dout).toNat ∧ (lane i o.dout).toNat ≤ 0x39)

/-- From rules R80 to R82: the string determines the time value, for every pair of time values (outside the
document's ranges by the spec's decision D13). -/
def Obligations.FormattedStringDeterminesTime : Prop :=
  ∀ (T U : TimeValue) (s t u : State), exec (.fmtt T) s = .next t → exec (.fmtt U) s = .next u →
    t.samples = u.samples → T = U

/-! ## The ports at every moment, and the parameters -/

/-- Rules R15, R17 and R100 (decisions D1 and D16). The output ports show `F` of a command from the moment
the host presents it, with no step and whatever was presented or sampled before; a step samples what the
ports show at that moment, and they show the same after it. -/
def Obligations.OutputPortsFollowInputsAtOnce : Prop :=
  ∀ (p : Params) (s : State) (op : OpCode) (din : Din),
    (s.present op din).outputs p = portFunction p op din ∧
    ∃ t : State, stepWith p (s.present op din) = .next t ∧
      t.samples = s.samples ++ [(s.present op din).outputs p] ∧
      t.outputs p = (s.present op din).outputs p

/-- Rule R14 (decision D6). The port `ill` is the level of rule R90 in every state, a function of the `op`
the host holds there and of `HAS_FMT` alone, and `dout` is 0x00 while it is raised. -/
def Obligations.IllPortIsLevelOfOp : Prop :=
  ∀ (p : Params) (s : State), s.ill p = illLevel p.hasFmt s.op ∧ (s.ill p = true → s.dout p = 0)

/-- Rule R16 (decisions D11 and D12; log entry 6). The step and the meanings of this block are those of the
step function that takes the parameters, at the parameters of this block. -/
def Obligations.StepIsParametricStepOfThisBlock : Prop :=
  (∀ s : State, step s = stepWith thisBlock s) ∧
  ∀ (i : Instr) (s : State), exec i s = execWith thisBlock i s
end

