-- ==== Sys2Proof/Laws/Codec.lean ====
section
/-! SUPPORT. The codec's arithmetic in numbers, each fact once over the 256 bytes. -/

namespace Sys2Proof.Machine

theorem hiNibble_eq (b : Byte) : hiNibble b = b.toNat / 16 := by
  have h := b.isLt
  simp [hiNibble, BitVec.extractLsb'_toNat, Nat.shiftRight_eq_div_pow]
  omega

theorem loNibble_eq (b : Byte) : loNibble b = b.toNat % 16 := by
  simp [loNibble, BitVec.extractLsb'_toNat]

/-- SPEC of `dec`: nothing wraps, so the number is the formula of rule R53. -/
theorem dec_toNat (b : Byte) : (dec b).toNat = b.toNat / 16 * 10 + b.toNat % 16 := by
  have h := b.isLt
  rw [dec, hiNibble_eq, loNibble_eq, BitVec.toNat_ofNat]
  omega

/-- SPEC of `enc`: the OR of the two digits is their sum, and nothing is cut off (rule R50). -/
theorem enc_toNat (v : Byte) : (enc v).toNat = v.toNat / 10 % 10 * 16 + v.toNat % 10 := by
  revert v; decide

end Sys2Proof.Machine
end

