-- ==== Sys2Proof/Laws/Lanes.lean ====
section
/-! SUPPORT. What a byte lane of a packed port reads as. -/

namespace Sys2Proof.Machine

/-- Bit `k` of lane `i` is bit `8*i + k` of the port. -/
@[simp] theorem lane_getLsbD {w : Nat} (i k : Nat) (x : BitVec w) :
    (lane i x).getLsbD k = (decide (k < 8) && x.getLsbD (8 * i + k)) := by
  simp [lane]

/-- Bit `8*i + k` of a packed port is bit `k` of byte `i`, for a bit inside the port. -/
theorem packLanes_getLsbD (w : Nat) (bs : List Byte) (i k : Nat) (hk : k < 8) (hw : 8 * i + k < w) :
    (packLanes w bs).getLsbD (8 * i + k) = (bs.getD i 0#8).getLsbD k := by
  induction bs generalizing i with
  | nil => simp [packLanes]
  | cons b bs ih =>
    cases i with
    | zero => simp_all [packLanes]
    | succ j =>
      have h : 8 * (j + 1) + k = 8 * j + k + 8 := by omega
      have hb : b.getLsbD (8 * j + k + 8) = false := BitVec.getLsbD_of_ge _ _ (by omega)
      rw [h] at hw ⊢
      rw [packLanes, BitVec.getLsbD_or, BitVec.getLsbD_setWidth, hb, BitVec.getLsbD_shiftLeft,
        Nat.add_sub_cancel, ih j (by omega)]
      simp [hw]

/-- SPEC of `packLanes`: lane `i` of a packed port is byte `i` of the list, 0x00 past its end. -/
theorem lane_packLanes (w : Nat) (bs : List Byte) (i : Nat) (h : 8 * i + 8 ≤ w) :
    lane i (packLanes w bs) = bs.getD i 0#8 := by
  refine BitVec.eq_of_getLsbD_eq fun k hk => ?_
  rw [lane_getLsbD, packLanes_getLsbD w bs i k hk (by omega)]
  simp [hk]

/-- The same for `dout`. -/
@[simp] theorem lane_packLanes_dout (bs : List Byte) (i : Nat) (h : i < 20) :
    lane i (packLanes 160 bs) = bs.getD i 0#8 :=
  lane_packLanes 160 bs i (by omega)

/-- The same for `din`. -/
@[simp] theorem lane_packLanes_din (bs : List Byte) (i : Nat) (h : i < 7) :
    lane i (packLanes 56 bs) = bs.getD i 0#8 :=
  lane_packLanes 56 bs i (by omega)

/-- Two ports of `8*n` bits with equal lanes are equal. -/
theorem eq_of_lanes {n : Nat} {x y : BitVec (8 * n)} (h : ∀ i, i < n → lane i x = lane i y) : x = y := by
  refine BitVec.eq_of_getLsbD_eq fun k hk => ?_
  have hl := congrArg (fun b => b.getLsbD (k % 8)) (h (k / 8) (by omega))
  have hk8 : k % 8 < 8 := Nat.mod_lt _ (by decide)
  have hdm : 8 * (k / 8) + k % 8 = k := Nat.div_add_mod k 8
  simp only [lane_getLsbD, hk8, hdm, decide_true, Bool.true_and] at hl
  exact hl

end Sys2Proof.Machine
end

