-- ==== Sys2Proof/Laws/PerInstr.lean ====
section
/-! SUPPORT. Facts about every instruction as text: its command word carries its row's op code in bits 2
to 0, the row's `match` under its mask 0x7 (rule R42). -/

namespace Sys2Proof.Laws

/-- The op-code field of the command word is the row's. -/
def OpCodeInWord.Statement (i : Instr) : Prop := encode i &&& 0x7#59 = (opCodeOf i).setWidth 59

/-- The low three bits of an appended word, under the mask. -/
theorem append_and_mask (d : Din) (op : OpCode) :
    ((d ++ op : BitVec 59) &&& 0x7#59) = op.setWidth 59 := by
  refine BitVec.eq_of_getLsbD_eq fun k hk => ?_
  have h7 : (0x7#59).getLsbD k = decide (k < 3) := by revert k; decide
  rw [BitVec.getLsbD_and, BitVec.getLsbD_append, BitVec.getLsbD_setWidth, h7]
  by_cases h : k < 3
  · simp [h, hk]
  · simp [h, BitVec.getLsbD_of_ge op k (by omega)]

theorem OpCodeInWord.encbcd (v : Byte) : OpCodeInWord.Statement (.encbcd v) := append_and_mask _ _
theorem OpCodeInWord.decbcd (b : Byte) : OpCodeInWord.Statement (.decbcd b) := append_and_mask _ _
theorem OpCodeInWord.packt (t : TimeValue) : OpCodeInWord.Statement (.packt t) := append_and_mask _ _
theorem OpCodeInWord.unpkt (f : ReadFrame) : OpCodeInWord.Statement (.unpkt f) := append_and_mask _ _
theorem OpCodeInWord.fmtt (t : TimeValue) : OpCodeInWord.Statement (.fmtt t) := append_and_mask _ _
theorem OpCodeInWord.reserved5 : OpCodeInWord.Statement .reserved5 := append_and_mask _ _
theorem OpCodeInWord.reserved6 : OpCodeInWord.Statement .reserved6 := append_and_mask _ _
theorem OpCodeInWord.reserved7 : OpCodeInWord.Statement .reserved7 := append_and_mask _ _

end Sys2Proof.Laws
end

