-- ==== Sys2Proof/Laws/Ports.lean ====
section
/-! SUPPORT. The output ports as functions of the inputs, and what leaves them alone. -/

namespace Sys2Proof.Machine

@[simp] theorem present_outputs (p : Params) (s : State) (op : OpCode) (din : Din) :
    (s.present op din).outputs p = portFunction p op din := rfl
@[simp] theorem sampleOutputs_outputs (p : Params) (o : Outputs) (s : State) :
    (sampleOutputs o s).outputs p = s.outputs p := rfl
@[simp] theorem raiseIllegal_outputs (p : Params) (s : State) :
    (raiseIllegal s).outputs p = s.outputs p := rfl

/-- SPEC of `State.dout` and `State.ill`: the two ports are `F` of the inputs. -/
theorem dout_ill_eq (p : Params) (s : State) :
    (⟨s.dout p, s.ill p⟩ : Outputs) = portFunction p s.op s.din := rfl

end Sys2Proof.Machine
end

