-- ==== Sys2Proof/Laws/State.lean ====
section
/-! SUPPORT. One lemma per field per update of State, and what each shared operation over State does. -/

namespace Sys2Proof.Machine

@[simp] theorem sampleOutputs_block (o : Outputs) (s : State) : (sampleOutputs o s).block = s.block := rfl
@[simp] theorem sampleOutputs_op (o : Outputs) (s : State) : (sampleOutputs o s).op = s.op := rfl
@[simp] theorem sampleOutputs_din (o : Outputs) (s : State) : (sampleOutputs o s).din = s.din := rfl
@[simp] theorem sampleOutputs_samples (o : Outputs) (s : State) :
    (sampleOutputs o s).samples = s.samples ++ [o] := rfl
@[simp] theorem sampleOutputs_safetyRecord (o : Outputs) (s : State) :
    (sampleOutputs o s).safetyRecord = if o.ill then some .illegalOperation else s.safetyRecord := rfl

@[simp] theorem raiseIllegal_block (s : State) : (raiseIllegal s).block = s.block := rfl
@[simp] theorem raiseIllegal_op (s : State) : (raiseIllegal s).op = s.op := rfl
@[simp] theorem raiseIllegal_din (s : State) : (raiseIllegal s).din = s.din := rfl
@[simp] theorem raiseIllegal_samples (s : State) :
    (raiseIllegal s).samples = s.samples ++ [illegalOutputs] := rfl
@[simp] theorem raiseIllegal_safetyRecord (s : State) :
    (raiseIllegal s).safetyRecord = some .illegalOperation := rfl

@[simp] theorem present_block (s : State) (op : OpCode) (din : Din) :
    (s.present op din).block = s.block := rfl
@[simp] theorem present_op (s : State) (op : OpCode) (din : Din) : (s.present op din).op = op := rfl
@[simp] theorem present_din (s : State) (op : OpCode) (din : Din) : (s.present op din).din = din := rfl
@[simp] theorem present_samples (s : State) (op : OpCode) (din : Din) :
    (s.present op din).samples = s.samples := rfl
@[simp] theorem present_safetyRecord (s : State) (op : OpCode) (din : Din) :
    (s.present op din).safetyRecord = s.safetyRecord := rfl

@[simp] theorem resultOutputs_dout (bs : List Byte) : (resultOutputs bs).dout = packLanes 160 bs := rfl
@[simp] theorem resultOutputs_ill (bs : List Byte) : (resultOutputs bs).ill = false := rfl
@[simp] theorem illegalOutputs_dout : illegalOutputs.dout = 0 := rfl
@[simp] theorem illegalOutputs_ill : illegalOutputs.ill = true := rfl

@[simp] theorem thisBlock_hour12 : thisBlock.hour12 = Config.hour12 := rfl
@[simp] theorem thisBlock_hasFmt : thisBlock.hasFmt = true := rfl
@[simp] theorem thisBlock_ptrSeconds : thisBlock.ptrSeconds = 0x00#8 := rfl
@[simp] theorem thisBlock_dowFiller : thisBlock.dowFiller = 0x01#8 := rfl
@[simp] theorem thisBlock_monthMask : thisBlock.monthMask = 0x1F#8 := rfl
@[simp] theorem thisBlock_centuryBit : thisBlock.centuryBit = 7 := rfl
@[simp] theorem thisBlock_mode12Bit : thisBlock.mode12Bit = 6 := rfl
@[simp] theorem thisBlock_pmBit : thisBlock.pmBit = 5 := rfl
@[simp] theorem thisBlock_centuryYears : thisBlock.centuryYears = 100 := rfl
@[simp] theorem thisBlock_epochYear : thisBlock.epochYear = 2000 := rfl

@[simp] theorem resultOf_resultOutputs (bs : List Byte) :
    resultOf (resultOutputs bs) = .ok (packLanes 160 bs) := rfl
@[simp] theorem resultOf_illegalOutputs : resultOf illegalOutputs = .error .illegalOperation := rfl

/-- SPEC of `sampleOutputs` on a result: one sample more, and the safety record stays. -/
theorem sampleOutputs_resultOutputs (bs : List Byte) (s : State) :
    sampleOutputs (resultOutputs bs) s = { s with samples := s.samples ++ [resultOutputs bs] } := rfl

/-- SPEC of `raiseIllegal`: a reserved code's outputs are sampled and the event is recorded. -/
theorem raiseIllegal_eq (s : State) :
    raiseIllegal s =
      { s with samples := s.samples ++ [⟨0, true⟩], safetyRecord := some .illegalOperation } := rfl

/-- SPEC of `present`: only the inputs change. -/
theorem present_eq (s : State) (op : OpCode) (din : Din) :
    s.present op din = { s with op := op, din := din } := rfl

end Sys2Proof.Machine
end

