-- ==== Sys2Proof/Machine/Assembly.lean ====
section
/-! DEFINITION. The textual form of a command and its result (rules R45 and R46, decision D18), as lists
of characters. -/

namespace Sys2Proof.Machine

/-- The mnemonic; for a reserved code the label of its opcode-table row, which is no mnemonic of the block
(rule R42). -/
def mnemonicOf : Instr → List Char
  | .encbcd _ => ['E', 'N', 'C', 'B', 'C', 'D']
  | .decbcd _ => ['D', 'E', 'C', 'B', 'C', 'D']
  | .packt _ => ['P', 'A', 'C', 'K', 'T']
  | .unpkt _ => ['U', 'N', 'P', 'K', 'T']
  | .fmtt _ => ['F', 'M', 'T', 'T']
  | .reserved5 => ['R', 'E', 'S', 'E', 'R', 'V', 'E', 'D', '5']
  | .reserved6 => ['R', 'E', 'S', 'E', 'R', 'V', 'E', 'D', '6']
  | .reserved7 => ['R', 'E', 'S', 'E', 'R', 'V', 'E', 'D', '7']

/-- The document's own name of an operation; PACKT and UNPKT have none of their own (rule R46). -/
def documentNameOf : Instr → Option (List Char)
  | .encbcd _ => some ['e', 'n', 'c', 'o', 'd', 'e', 'B', 'c', 'd']
  | .decbcd _ => some ['d', 'e', 'c', 'o', 'd', 'e', 'B', 'c', 'd']
  | .packt _ => none
  | .unpkt _ => none
  | .fmtt _ => some ['f', 'o', 'r', 'm', 'a', 't', 'T', 'i', 'm', 'e']
  | .reserved5 => none
  | .reserved6 => none
  | .reserved7 => none

/-- A decimal digit, or an upper-case letter for 10 to 15. -/
def hexChar (n : Nat) : Char := if n < 10 then Char.ofNat (0x30 + n) else Char.ofNat (0x37 + n)

/-- A byte as two hexadecimal digits, as frame bytes are written. -/
def hexText (b : Byte) : List Char := [hexChar (hiNibble b), hexChar (loNibble b)]

/-- A byte in hexadecimal with `0x`, as a packed-BCD byte is written. -/
def bcdText (b : Byte) : List Char := '0' :: 'x' :: hexText b

/-- A byte as a decimal numeral without leading zeros. -/
def decText (b : Byte) : List Char :=
  let n := b.toNat
  if n < 10 then [hexChar n]
  else if n < 100 then [hexChar (n / 10), hexChar (n % 10)]
  else [hexChar (n / 100), hexChar (n / 10 % 10), hexChar (n % 10)]

/-- Items with one space before each (log entry 12). -/
def spaced (items : List (List Char)) : List Char := items.flatMap (fun x => ' ' :: x)

/-- The operands in the order of rule R41. -/
def operandText : Instr → List (List Char)
  | .encbcd v => [decText v]
  | .decbcd b => [bcdText b]
  | .packt t => (timeBytes t).map decText
  | .unpkt f => (readFrameBytes f).map hexText
  | .fmtt t => (timeBytes t).map decText
  | .reserved5 => []
  | .reserved6 => []
  | .reserved7 => []

/-- The result bytes an operation drives with results, read from `dout` in `DO` order; a reserved code
has none (rule R45). -/
def resultText (i : Instr) (dout : Dout) : List (List Char) :=
  match i with
  | .encbcd _ => [bcdText (lane 0 dout)]
  | .decbcd _ => [decText (lane 0 dout)]
  | .packt _ => (List.range 8).map (fun k => hexText (lane k dout))
  | .unpkt _ => (List.range 6).map (fun k => decText (lane k dout))
  | .fmtt _ =>
      [['"'] ++ (List.range 19).map (fun k => Char.ofNat (lane k dout).toNat) ++ ['"'],
        hexText (lane 19 dout)]
  | .reserved5 => []
  | .reserved6 => []
  | .reserved7 => []

/-- A command and its result on one line (rule R45). -/
def assemblyLine (i : Instr) (dout : Dout) : List Char :=
  mnemonicOf i ++ spaced (operandText i) ++ spaced (['=', '>'] :: resultText i dout)

end Sys2Proof.Machine
end

