-- ==== Sys2Proof/Tests/Slice0.lean ====
section
/-! SUPPORT. Tests: expected results from the spec's vectors (file 95) and worked examples, the refusals of
each check, and a witness for every statement that has hypotheses. -/

namespace Sys2Proof.Tests

open Sys2Proof.Machine

/-- The first `n` result bytes and `ill` after one step on a command word placed in the reset state. -/
def run (n : Nat) (cw : Nat) : Option (List Byte × Bool) :=
  match step (State.reset.withFetchWord 59 cw) with
  | .next t => t.samples.getLast?.map (fun o => ((List.range n).map (fun k => lane k o.dout), o.ill))
  | .fault _ => none
  | .refused _ => none

/-- The candidate of passage G2 (file 93), from general knowledge and used by no rule: one named setting of
the parameter `HOUR12`, to run the last column of the UNPKT vectors. -/
def hour12CandidateG2 (b : Byte) : Byte :=
  BitVec.ofNat 8 (12 * (b.getLsbD 4).toNat + 12 * (b.getLsbD thisBlock.pmBit).toNat)

/-! ## Decoding: command words written out field by field from the layout of rule R42 -/

theorem test_decode_encbcd :
    decode (0#8 ++ 0#8 ++ 0#8 ++ 0#8 ++ 0#8 ++ 0#8 ++ 0b01111011#8 ++ 0b000#3) = .encbcd 123 := by decide

theorem test_decode_decbcd :
    decode (0#8 ++ 0#8 ++ 0#8 ++ 0#8 ++ 0#8 ++ 0#8 ++ 0b11111010#8 ++ 0b001#3) = .decbcd 0xFA := by decide

theorem test_decode_packt :
    decode (0xEE#8 ++ 45#8 ++ 30#8 ++ 14#8 ++ 9#8 ++ 11#8 ++ 26#8 ++ 0b010#3) =
      .packt ⟨26, 11, 9, 14, 30, 45⟩ := by decide

theorem test_decode_unpkt :
    decode (0x26#8 ++ 0x11#8 ++ 0x09#8 ++ 0x02#8 ++ 0x72#8 ++ 0x30#8 ++ 0x01#8 ++ 0b011#3) =
      .unpkt ⟨0x01, 0x30, 0x72, 0x02, 0x09, 0x11, 0x26⟩ := by decide

theorem test_decode_fmtt :
    decode (0#8 ++ 6#8 ++ 5#8 ++ 4#8 ++ 3#8 ++ 2#8 ++ 1#8 ++ 0b100#3) = .fmtt ⟨1, 2, 3, 4, 5, 6⟩ := by decide

theorem test_decode_reserved5 : decode (0x12345678ABCDEF#56 ++ 0b101#3) = .reserved5 := by decide
theorem test_decode_reserved6 : decode (0x12345678ABCDEF#56 ++ 0b110#3) = .reserved6 := by decide
theorem test_decode_reserved7 : decode (0x12345678ABCDEF#56 ++ 0b111#3) = .reserved7 := by decide

/-- Vector K7 in eight bytes, the lowest first. -/
theorem test_decodeBytes_k7 :
    decodeBytes [0xD2, 0x58, 0x48, 0x70, 0xF0, 0x68, 0x01, 0x00] = .ok (.packt ⟨26, 11, 9, 14, 30, 45⟩) := by
  decide

/-- Vector K7, encoded. -/
theorem test_encode_k7 : encode (.packt ⟨26, 11, 9, 14, 30, 45⟩) = 0x00168F0704858D2 := by decide

theorem test_decodeTableWord : decodeTableWord 64 0x7F9 = some (.decbcd 0xFF) := by decide

/-! ## One step of each operation, from the vectors of file 95 -/

theorem test_encbcd_45 : run 3 0x168 = some ([0x45, 0, 0], false) := by decide
theorem test_encbcd_123_wraps : run 3 0x3D8 = some ([0x23, 0, 0], false) := by decide
theorem test_decbcd_45 : run 3 0x229 = some ([45, 0, 0], false) := by decide
theorem test_decbcd_not_bcd : run 3 0x7F9 = some ([165, 0, 0], false) := by decide

/-- Vector K2, the century bit set. -/
theorem test_packt_k2 :
    run 9 0x001D9D8B8F8634A = some ([0x00, 0x59, 0x59, 0x23, 0x01, 0x31, 0x92, 0x05, 0], false) := by decide

/-- Vector K12, the month spilling into the century bit. -/
theorem test_packt_k12 :
    run 9 0x0000018483AA8BA = some ([0x00, 0x00, 0x03, 0x09, 0x01, 0x07, 0x85, 0x23, 0], false) := by decide

/-- Vector U9, bytes that are not packed BCD. -/
theorem test_unpkt_u9 : run 7 0x500FD5008D87BD3 = some ([100, 25, 110, 21, 15, 80, 0], false) := by decide

/-- Vector U11, the year sum wrapping. -/
theorem test_unpkt_u11 : run 7 0x7B4080808000003 = some ([0, 1, 1, 0, 0, 0, 0], false) := by decide

/-- Vector U17: the hour is the open `HOUR12(0x72)`. -/
theorem test_unpkt_u17 :
    unpackFrame thisBlock ⟨0x00, 0x30, 0x72, 0x02, 0x09, 0x11, 0x26⟩ =
      ⟨26, 11, 9, Config.hour12 0x72, 30, 0⟩ := rfl

/-- Vectors U14 to U17 under the candidate G2. -/
theorem test_unpkt_candidate :
    [0x41#8, 0x52#8, 0x65#8, 0x72#8].map (unpackHour { thisBlock with hour12 := hour12CandidateG2 }) =
      [0, 12, 12, 24] := by decide

/-- Vector S4, the document's own. -/
theorem test_fmtt_s4 :
    run 20 0x001D9D8B8F8634C = some ([0x32, 0x31, 0x30, 0x35, 0x2D, 0x31, 0x32, 0x2D, 0x33, 0x31, 0x54, 0x32,
      0x33, 0x3A, 0x35, 0x39, 0x3A, 0x35, 0x39, 0x00], false) := by decide

/-- Vector F10, second 255. -/
theorem test_fmtt_f10 :
    run 20 0x007F818483828BC = some ([0x32, 0x30, 0x32, 0x33, 0x2D, 0x30, 0x35, 0x2D, 0x30, 0x37, 0x54, 0x30,
      0x39, 0x3A, 0x30, 0x33, 0x3A, 0x49, 0x35, 0x00], false) := by decide

theorem test_reserved5 : run 2 0x5 = some ([0, 0], true) := by decide
theorem test_reserved6 : run 2 0x22E = some ([0, 0], true) := by decide
theorem test_reserved7 : run 2 0x7FFFFFFFFFFFFFF = some ([0, 0], true) := by decide

/-- Section 8 of file 95, its fourth row: op code 4 without a formatter. -/
theorem test_fmtt_absent :
    portFunction { thisBlock with hasFmt := false } 4 0x00000309070517 = illegalOutputs := by decide

/-- Program P5: step 3 gives what step 1 gave, and the safety record still holds step 2. -/
theorem test_program_p5 :
    (match session thisBlock [⟨0, 59⟩, ⟨7, 59⟩, ⟨0, 59⟩] State.reset with
      | .next t => some (t.samples.map (fun o => (resultOf o).toOption), t.isSafe)
      | .fault _ => none
      | .refused _ => none) = some ([some 0x59, none, some 0x59], false) := by decide

/-- The ports follow the inputs at once: a reserved code raises `ill` with no step, and ENCBCD 59 shows 0x59. -/
theorem test_ports_follow_inputs :
    (State.reset.present 7 0).ill thisBlock = true ∧
      lane 0 ((State.reset.present 0 59).dout thisBlock) = 0x59 ∧
      ((State.reset.present 7 0).present 0 59).ill thisBlock = false := by decide

/-- The step without a formatter: op code 4 is sampled as a reserved code. -/
theorem test_stepWith_no_formatter :
    (match stepWith { thisBlock with hasFmt := false } (State.reset.present 4 0x00000309070517) with
      | .next t => some t.samples
      | .fault _ => none
      | .refused _ => none) = some [⟨0, true⟩] := by decide

/-- Program P1: set the time, read it back. -/
theorem test_program_p1 :
    readBack (packFrame thisBlock ⟨26, 11, 9, 14, 30, 45⟩) = ⟨0x45, 0x30, 0x14, 0x01, 0x09, 0x11, 0x26⟩ ∧
    unpackFrame thisBlock ⟨0x45, 0x30, 0x14, 0x01, 0x09, 0x11, 0x26⟩ = ⟨26, 11, 9, 14, 30, 45⟩ := by decide

/-- The lines of rule R45 for `ENCBCD 123` and for S3. -/
theorem test_assembly_line_encbcd :
    assemblyLine (.encbcd 123) (resultOutputs [0x23]).dout =
      ['E', 'N', 'C', 'B', 'C', 'D', ' ', '1', '2', '3', ' ', '=', '>', ' ', '0', 'x', '2', '3'] := by decide

theorem test_assembly_line_unpkt :
    assemblyLine (.unpkt ⟨0x00, 0x03, 0x09, 0x01, 0x07, 0x05, 0x23⟩) (resultOutputs [23, 5, 7, 9, 3, 0]).dout =
      ['U', 'N', 'P', 'K', 'T', ' ', '0', '0', ' ', '0', '3', ' ', '0', '9', ' ', '0', '1', ' ', '0', '7', ' ',
        '0', '5', ' ', '2', '3', ' ', '=', '>', ' ', '2', '3', ' ', '5', ' ', '7', ' ', '9', ' ', '3', ' ',
        '0'] := by decide

/-- Rule R21's map at its edges. -/
theorem test_device_map :
    [0x06, 0x07, 0x08, 0x3F, 0x40].map deviceRegisterAt =
      [some .yearInCentury, some .control, some (.scratch 0x08), some (.scratch 0x3F), none] := by decide

/-! ## What each check refuses -/

theorem test_isBcd_refuses_low_nibble : isBcd 0x1A = false := by decide
theorem test_isBcd_refuses_high_nibble : isBcd 0xA1 = false := by decide
theorem test_inRange_refuses :
    [TimeValue.mk 200 1 1 0 0 0, ⟨0, 0, 1, 0, 0, 0⟩, ⟨0, 13, 1, 0, 0, 0⟩, ⟨0, 1, 0, 0, 0, 0⟩,
      ⟨0, 1, 32, 0, 0, 0⟩, ⟨0, 1, 1, 24, 0, 0⟩, ⟨0, 1, 1, 0, 60, 0⟩, ⟨0, 1, 1, 0, 0, 60⟩].all
      (fun t => !t.inRange) = true := by decide
theorem test_packable_refuses :
    [TimeValue.mk 200 0 0 0 0 0, ⟨0, 20, 0, 0, 0, 0⟩, ⟨0, 0, 100, 0, 0, 0⟩, ⟨0, 0, 0, 40, 0, 0⟩,
      ⟨0, 0, 0, 0, 100, 0⟩, ⟨0, 0, 0, 0, 0, 100⟩].all (fun t => !t.packable) = true := by decide
theorem test_printable_refuses :
    [TimeValue.mk 0 100 0 0 0 0, ⟨0, 0, 100, 0, 0, 0⟩, ⟨0, 0, 0, 100, 0, 0⟩, ⟨0, 0, 0, 0, 100, 0⟩,
      ⟨0, 0, 0, 0, 0, 100⟩].all (fun t => !t.printable) = true := by decide
theorem test_isBcd24_refuses :
    [ReadFrame.mk 0x0A 0 0 0 0 0 0, ⟨0, 0x0A, 0, 0, 0, 0, 0⟩, ⟨0, 0, 0x0A, 0, 0, 0, 0⟩, ⟨0, 0, 0, 0, 0x0A, 0, 0⟩,
      ⟨0, 0, 0, 0, 0, 0x0A, 0⟩, ⟨0, 0, 0, 0, 0, 0, 0x0A⟩, ⟨0, 0, 0x40, 0, 0, 0, 0⟩].all
      (fun f => !f.isBcd24) = true := by decide
theorem test_isOperation_refuses :
    Instr.isOperation true .reserved5 = false ∧ Instr.isOperation true .reserved6 = false ∧
      Instr.isOperation true .reserved7 = false ∧ Instr.isOperation false (.fmtt ⟨0, 0, 0, 0, 0, 0⟩) = false := by
  decide
theorem test_decodeBytes_refuses_length : decodeBytes [0, 0, 0] = .error (.wrongLength 3) := by decide
theorem test_decodeBytes_refuses_top :
    decodeBytes [0, 0, 0, 0, 0, 0, 0, 0x08] = .error .bitsAboveCommandWord := by decide

/-! ## Witnesses: states and operands that meet the hypotheses of each statement -/

theorem witness_ReservedCodesDriveZeroAndIll :
    Instr.reserved6 = .reserved5 ∨ Instr.reserved6 = .reserved6 ∨ Instr.reserved6 = .reserved7 := by decide

theorem witness_NoOperandValueIsIllegal :
    Instr.isOperation thisBlock.hasFmt (.fmtt ⟨255, 255, 255, 255, 255, 255⟩) = true := by decide

theorem witness_PlacedWordIsTheCommandRun : decodeTableWord 64 0x168 = some (.encbcd 45) := by decide

theorem witness_AbsentFormatterChangesOnlyOpFour :
    (State.reset.present 4 0).op = 4 ∧ (State.reset.present 3 0).op ≠ 4 ∧ (State.reset.present 5 0).op ≠ 4 := by
  decide

theorem witness_IllDependsOnOpAlone : (portFunction thisBlock 5 59).ill = true := by decide

theorem witness_NoCommandObservesThePast :
    ({ State.reset with samples := [⟨7, false⟩] } : State).op = State.reset.op ∧
      ({ State.reset with samples := [⟨7, false⟩] } : State).din = State.reset.din := by decide

/-- One witness for each kind of op code, at `din` that differ exactly in bytes it does not read. -/
theorem witness_UnreadOperandBytesDoNotMatter :
    lane 0 (0xFFFFFFFFFFFF2D#56) = lane 0 (0x2D#56) ∧
    (∀ i, i < 6 → lane i (0xFF3B3B171F0C69#56) = lane i (0x003B3B171F0C69#56)) ∧
    (∀ i, i < 7 → i ≠ 3 → lane i (0x23050701090300#56) = lane i (0x230507FF090300#56)) := by decide

/-- A coherent state with a fault in its record, and a step from it. -/
theorem witness_StepKeepsCoherence :
    (raiseIllegal State.reset).coherent ∧ (raiseIllegal State.reset).isSafe = false ∧
      (∃ t, step (raiseIllegal State.reset) = .next t) ∧
      ∃ t, stepWith thisBlock (raiseIllegal State.reset) = .next t :=
  ⟨⟨by decide, by decide⟩, rfl, ⟨_, rfl⟩, ⟨_, rfl⟩⟩

theorem witness_IllPortIsLevelOfOp : (State.reset.present 5 59).ill thisBlock = true := by decide

theorem witness_SessionIsSafeExactlyWithoutReserved :
    ∃ t, session thisBlock [⟨0, 59⟩, ⟨6, 0⟩] State.reset = .next t := ⟨_, rfl⟩

theorem witness_CommandOrderDoesNotMatter :
    ([⟨0, 59⟩, ⟨1, 0x59⟩] : List Command).Perm [⟨1, 0x59⟩, ⟨0, 59⟩] ∧
      (∃ t outs, session thisBlock [⟨0, 59⟩, ⟨1, 0x59⟩] State.reset = .next t ∧
        t.samples = State.reset.samples ++ outs) ∧
      ∃ t outs, session thisBlock [⟨1, 0x59⟩, ⟨0, 59⟩] State.reset = .next t ∧
        t.samples = State.reset.samples ++ outs :=
  ⟨List.Perm.swap _ _ _, ⟨_, _, rfl, rfl⟩, ⟨_, _, rfl, rfl⟩⟩

theorem witness_ReservedCommandLeavesNoTrace : (7 : OpCode) = 5 ∨ (7 : OpCode) = 6 ∨ (7 : OpCode) = 7 := by
  decide

theorem witness_EncodeThenDecodeIsModulo100 : (99#8).toNat ≤ 99 := by decide

/-- The clauses of the hour at 0, 23, 40 and 79. -/
theorem witness_PackedHourIsTwentyFourHour :
    (0#8).toNat ≤ 23 ∧ (23#8).toNat ≤ 23 ∧ (40 ≤ (40#8).toNat % 100 ∧ (40#8).toNat % 100 ≤ 79) ∧
      (40 ≤ (179#8).toNat % 100 ∧ (179#8).toNat % 100 ≤ 79) := by decide

/-- The clauses of the month and of the year at 79, and at 199 and 200. -/
theorem witness_PackedYearAndCentury :
    (79#8).toNat % 100 ≤ 79 ∧ ¬ 200 ≤ (199#8).toNat ∧ 200 ≤ (200#8).toNat := by decide

theorem witness_PackedMonthSpills : (19#8).toNat % 100 ≤ 19 ∧ 80 ≤ (80#8).toNat % 100 := by decide

theorem witness_HourBranchIsBitSix :
    (0x72#8).getLsbD 6 = true ∧ (0xBF#8).getLsbD 6 = false ∧
      ((0x23#8).getLsbD 6 = false ∧ isBcd 0x23 = true ∧ (0x23#8).toNat ≤ 0x23) := by decide

theorem witness_UnpackedMonthIsMasked : 0x60#8 &&& 0x9F#8 = 0 := by decide

theorem witness_UnpackedYearBounds :
    isBcd 0x99 = true ∧ (0x81#8).getLsbD 7 = true ∧ 0xF6 ≤ (0xF6#8).toNat := by decide

theorem witness_UnpackReadsEveryOtherBit : (0x20#8).getLsbD 6 = false ∧ 0 < 8 ∧ 7 < 8 := by decide

theorem witness_UnpackedRanges :
    (ReadFrame.mk 0x99 0x99 0x99 0xFF 0x99 0xF9 0x99).isBcd24 = true ∧
      (ReadFrame.mk 0 0 0x39 0 0 0 0).isBcd24 = true := by decide

/-- The largest value of every field. -/
theorem witness_PackThenUnpackIsIdentityInRange :
    (TimeValue.mk 199 19 99 39 99 99).packable = true ∧ (TimeValue.mk 199 12 31 23 59 59).inRange = true ∧
      (TimeValue.mk 0 1 1 0 0 0).inRange = true := by decide

/-- Each condition at its last packed-BCD byte, and the 12-hour one. -/
theorem witness_UnpackThenPackBytes :
    isBcd 0x99 = true ∧ (isBcd 0x39 = true ∧ (0x39#8).getLsbD 6 = false) ∧ (0x40#8).getLsbD 6 = true ∧
      (0x99#8 &&& 0x60#8 = 0 ∧ isBcd (0x99#8 &&& 0x1F#8) = true) := by decide

theorem witness_FormattedStringHasFixedShape : (TimeValue.mk 255 99 99 99 99 99).printable = true := by decide

theorem witness_FormattedStringDeterminesTime :
    ∃ t u : State, exec (.fmtt ⟨23, 5, 7, 9, 3, 0⟩) State.reset = .next t ∧
      exec (.fmtt ⟨23, 5, 7, 9, 3, 0⟩) State.reset = .next u ∧ t.samples = u.samples := ⟨_, _, rfl, rfl, rfl⟩

end Sys2Proof.Tests
end

section
/-! Rule R22: the two frames name the same device registers, one index apart. -/

namespace Sys2Proof.Machine

@[simp] theorem readFrameOffset_of_lt {i : Nat} (hi : i < 7) : readFrameOffset i = some i := if_pos hi

/-- The pointer byte has no offset of its own. -/
@[simp] theorem writeFrameOffset_zero (p : Params) : writeFrameOffset p 0 = none :=
  if_neg (by omega)

/-- The byte `i` places after the pointer goes `i` registers past the one the pointer names. -/
@[simp] theorem writeFrameOffset_succ_of_lt (p : Params) {i : Nat} (hi : i < 7) :
    writeFrameOffset p (i + 1) = some (p.ptrSeconds.toNat + i) :=
  if_pos (by omega)

/-- Reading a write frame back drops the pointer byte and nothing else. -/
theorem readFrameBytes_readBack (w : WriteFrame) :
    readFrameBytes (readBack w) = (writeFrameBytes w).tail := rfl

/-- `B[i]` read back is `W[i+1]`; past the end both lists answer the same default. -/
theorem readFrameBytes_readBack_getD (w : WriteFrame) (i : Nat) (d : Byte) :
    (readFrameBytes (readBack w)).getD i d = (writeFrameBytes w).getD (i + 1) d := by
  rw [readFrameBytes_readBack, List.getD_eq_getElem?_getD, List.getElem?_tail,
    ← List.getD_eq_getElem?_getD]

@[simp] theorem packFrame_w0 (p : Params) (t : TimeValue) : (packFrame p t).w0 = p.ptrSeconds := rfl

@[simp] theorem deviceRegisterAt_zero : deviceRegisterAt 0 = some .seconds := rfl

end Sys2Proof.Machine

open Sys2Proof Sys2Proof.Machine

/-- Settles O44: the pointer of this block is 0, so the write frame's offsets run as the read frame's do,
one index later, and reading back is the tail of what was written. -/
theorem framesNameTheSameRegisters : Obligations.FramesNameTheSameRegisters := by
  unfold Obligations.FramesNameTheSameRegisters
  refine ⟨fun i hi => ⟨?_, readFrameOffset_of_lt hi⟩, fun w i _ => readFrameBytes_readBack_getD w i 0,
    fun T => ?_, writeFrameOffset_zero thisBlock, deviceRegisterAt_zero⟩
  · have hptr : thisBlock.ptrSeconds.toNat = 0 := by simp
    rw [writeFrameOffset_succ_of_lt thisBlock hi, hptr, Nat.zero_add]
  · rw [packFrame_w0, thisBlock_ptrSeconds]

end

section
/-! Rules R15 and R41: a command of the decoder computes `F` of the ports it was decoded from, the encoder's
ports decode to the command they came from, and `ill` is the level of the op code. -/

namespace Sys2Proof.Machine

/-! The decoder, one equation per op code (rule R40). -/

@[simp] theorem decodePorts_zero (din : Din) : decodePorts 0#3 din = .encbcd (byteOfDin din) := rfl
@[simp] theorem decodePorts_one (din : Din) : decodePorts 1#3 din = .decbcd (byteOfDin din) := rfl
@[simp] theorem decodePorts_two (din : Din) : decodePorts 2#3 din = .packt (timeOfDin din) := rfl
@[simp] theorem decodePorts_three (din : Din) : decodePorts 3#3 din = .unpkt (frameOfDin din) := rfl
@[simp] theorem decodePorts_four (din : Din) : decodePorts 4#3 din = .fmtt (timeOfDin din) := rfl
@[simp] theorem decodePorts_five (din : Din) : decodePorts 5#3 din = .reserved5 := rfl
@[simp] theorem decodePorts_six (din : Din) : decodePorts 6#3 din = .reserved6 := rfl
@[simp] theorem decodePorts_seven (din : Din) : decodePorts 7#3 din = .reserved7 := rfl

/-! `F`, one equation per op code (rules R41, R43 and R86). -/

section
variable (p : Params) (din : Din)

@[simp] theorem portFunction_zero : portFunction p 0#3 din = resultOutputs [enc (byteOfDin din)] := rfl
@[simp] theorem portFunction_one : portFunction p 1#3 din = resultOutputs [dec (byteOfDin din)] := rfl
@[simp] theorem portFunction_two :
    portFunction p 2#3 din = resultOutputs (writeFrameBytes (packFrame p (timeOfDin din))) := rfl
@[simp] theorem portFunction_three :
    portFunction p 3#3 din = resultOutputs (timeBytes (unpackFrame p (frameOfDin din))) := rfl
@[simp] theorem portFunction_four : portFunction p 4#3 din = fmttOutputs p (timeOfDin din) := by
  simp [portFunction, fmttOutputs]
@[simp] theorem portFunction_five : portFunction p 5#3 din = illegalOutputs := by simp [portFunction]
@[simp] theorem portFunction_six : portFunction p 6#3 din = illegalOutputs := by simp [portFunction]
@[simp] theorem portFunction_seven : portFunction p 7#3 din = illegalOutputs := by simp [portFunction]

end

/-- Op code 4 is illegal exactly where there is no formatter (rule R86). -/
@[simp] theorem fmttOutputs_ill (p : Params) (t : TimeValue) : (fmttOutputs p t).ill = !p.hasFmt := by
  cases h : p.hasFmt <;> simp [fmttOutputs, h]

/-! What each command samples on a block with parameters `p` (rules R16 and R41). -/

section
variable (p : Params) (s : State)

@[simp] theorem execWith_encbcd (v : Byte) :
    execWith p (.encbcd v) s = .next (sampleOutputs (resultOutputs [enc v]) s) := rfl
@[simp] theorem execWith_decbcd (b : Byte) :
    execWith p (.decbcd b) s = .next (sampleOutputs (resultOutputs [dec b]) s) := rfl
@[simp] theorem execWith_packt (t : TimeValue) :
    execWith p (.packt t) s =
      .next (sampleOutputs (resultOutputs (writeFrameBytes (packFrame p t))) s) := rfl
@[simp] theorem execWith_unpkt (f : ReadFrame) :
    execWith p (.unpkt f) s = .next (sampleOutputs (resultOutputs (timeBytes (unpackFrame p f))) s) := rfl
@[simp] theorem execWith_fmtt (t : TimeValue) :
    execWith p (.fmtt t) s = .next (sampleOutputs (fmttOutputs p t) s) := rfl
@[simp] theorem execWith_reserved5 :
    execWith p .reserved5 s = .next (sampleOutputs illegalOutputs s) := rfl
@[simp] theorem execWith_reserved6 :
    execWith p .reserved6 s = .next (sampleOutputs illegalOutputs s) := rfl
@[simp] theorem execWith_reserved7 :
    execWith p .reserved7 s = .next (sampleOutputs illegalOutputs s) := rfl

end

/-- The eight rows of the opcode table (rules R40 and R43). -/
theorem opCode_cases (op : OpCode) :
    op = 0#3 ∨ op = 1#3 ∨ op = 2#3 ∨ op = 3#3 ∨ op = 4#3 ∨ op = 5#3 ∨ op = 6#3 ∨ op = 7#3 := by
  revert op; decide

/-- SPEC of `execWith` on the ports: the decoded command completes and the host samples `F` of those ports. -/
theorem execWith_decodePorts (p : Params) (op : OpCode) (din : Din) (s : State) :
    execWith p (decodePorts op din) s = .next (sampleOutputs (portFunction p op din) s) := by
  rcases opCode_cases op with rfl | rfl | rfl | rfl | rfl | rfl | rfl | rfl <;> simp

/-- SPEC of the `ill` of `F`: the level of the op code (rule R90). -/
@[simp] theorem portFunction_ill (p : Params) (op : OpCode) (din : Din) :
    (portFunction p op din).ill = illLevel p.hasFmt op := by
  rcases opCode_cases op with rfl | rfl | rfl | rfl | rfl | rfl | rfl | rfl <;> simp [illLevel]

/-- The machine of this block is the parametric one at this block's parameters (rule R16). -/
theorem exec_eq_execWith (i : Instr) (s : State) : exec i s = execWith thisBlock i s := by
  cases i <;> rfl

/-! An operand put in its lanes by the encoder is read back by the decoder (rules R41 and R42). -/

@[simp] theorem byteOfDin_packLanes (b : Byte) : byteOfDin (packLanes 56 [b]) = b := by
  simp [byteOfDin]

@[simp] theorem timeOfDin_packLanes (t : TimeValue) : timeOfDin (packLanes 56 (timeBytes t)) = t := by
  simp [timeOfDin, timeBytes]

@[simp] theorem frameOfDin_packLanes (f : ReadFrame) :
    frameOfDin (packLanes 56 (readFrameBytes f)) = f := by
  simp [frameOfDin, readFrameBytes]

/-- The ports written for a command decode to that command (rule R42; log entry 9). -/
@[simp] theorem decodePorts_opCodeOf_dinOf (i : Instr) : decodePorts (opCodeOf i) (dinOf i) = i := by
  cases i <;> simp [opCodeOf, dinOf, operandBytesOf]

/-- SPEC of `execWith`: every command completes and the host samples `F` of its op code and operands. -/
theorem execWith_eq (p : Params) (i : Instr) (s : State) :
    execWith p i s = .next (sampleOutputs (portFunction p (opCodeOf i) (dinOf i)) s) := by
  simpa using execWith_decodePorts p (opCodeOf i) (dinOf i) s

/-- The level of a command's op code is raised exactly when the command is no operation (rules R43 and R90). -/
theorem illLevel_opCodeOf (hasFmt : Bool) (i : Instr) :
    illLevel hasFmt (opCodeOf i) = !i.isOperation hasFmt := by
  cases i <;> simp [illLevel, opCodeOf, Instr.isOperation]

end Sys2Proof.Machine

open Sys2Proof Sys2Proof.Machine

/-- Settles O7: every command samples `F` of its own op code and operands, and an operation's op code is not
at the illegal level. -/
theorem noOperandValueIsIllegal : Obligations.NoOperandValueIsIllegal := by
  unfold Obligations.NoOperandValueIsIllegal
  intro i s hop
  have hnext : exec i s = .next (sampleOutputs (portFunction thisBlock (opCodeOf i) (dinOf i)) s) := by
    rw [exec_eq_execWith, execWith_eq]
  have hill : (portFunction thisBlock (opCodeOf i) (dinOf i)).ill = false := by
    rw [portFunction_ill, illLevel_opCodeOf, hop, Bool.not_true]
  exact ⟨_, _, hnext, sampleOutputs_samples _ s, hill, rfl⟩

end

section
/-! Rules R50 and R53: the one result byte of ENCBCD and DECBCD. -/

namespace Sys2Proof.Machine

/-! What the lanes of a result's `dout` hold (rule R41). -/

@[simp] theorem lane_zero_resultOutputs_cons (b : Byte) (bs : List Byte) :
    lane 0 (resultOutputs (b :: bs)).dout = b := by
  rw [resultOutputs_dout, lane_packLanes_dout _ 0 (by omega), List.getD_cons_zero]

/-- Every byte of `dout` past the result bytes is 0x00. -/
theorem lane_resultOutputs_of_length_le {bs : List Byte} {i : Nat} (hlen : bs.length ≤ i) (hi : i < 20) :
    lane i (resultOutputs bs).dout = 0 := by
  rw [resultOutputs_dout, lane_packLanes_dout bs i hi, List.getD_eq_default bs _ hlen]
  rfl

/-! The formulas of the codec as the rules write them. -/

/-- The two digits fill a nibble each, so the 8-bit byte cuts nothing off the OR (rule R50). -/
theorem enc_toNat_eq_or (v : Byte) : (enc v).toNat = ((v.toNat / 10 % 10) <<< 4 ||| v.toNat % 10) := by
  have htens : (v.toNat / 10 % 10) <<< 4 < 2 ^ 8 := by rw [Nat.shiftLeft_eq]; omega
  have hunits : v.toNat % 10 < 2 ^ 8 := by omega
  rw [enc, BitVec.toNat_ofNat, Nat.mod_eq_of_lt (Nat.or_lt_two_pow htens hunits)]

/-- The formula in the nibbles `b[7:4]` and `b[3:0]` (rule R53). -/
theorem dec_toNat_eq_nibbles (b : Byte) :
    (dec b).toNat = (b.extractLsb' 4 4).toNat * 10 + (b.extractLsb' 0 4).toNat := by
  rw [dec_toNat, ← hiNibble_eq, ← loNibble_eq, hiNibble, loNibble]

/-! What the two codec commands sample. -/

theorem exec_encbcd (v : Byte) (s : State) :
    exec (.encbcd v) s = .next (sampleOutputs (resultOutputs [enc v]) s) := by
  rw [exec_eq_execWith, execWith_encbcd]

theorem exec_decbcd (b : Byte) (s : State) :
    exec (.decbcd b) s = .next (sampleOutputs (resultOutputs [dec b]) s) := by
  rw [exec_eq_execWith, execWith_decbcd]

end Sys2Proof.Machine

open Sys2Proof Sys2Proof.Machine

/-- Settles O1: the one result byte is `enc v`, and its two digits do not overlap. -/
theorem encbcdDrivesTensAndUnits : Obligations.EncbcdDrivesTensAndUnits := by
  unfold Obligations.EncbcdDrivesTensAndUnits
  refine ⟨decodePorts_zero, fun v s => ⟨_, _, exec_encbcd v s, sampleOutputs_samples _ s, ?_,
    fun i hlen hi => lane_resultOutputs_of_length_le hlen hi, resultOutputs_ill _⟩⟩
  rw [lane_zero_resultOutputs_cons, enc_toNat_eq_or]

/-- Settles O2: the one result byte is `dec b`, at most 165, so it does not wrap. -/
theorem decbcdAddsTenTimesHighNibble : Obligations.DecbcdAddsTenTimesHighNibble := by
  unfold Obligations.DecbcdAddsTenTimesHighNibble
  refine ⟨decodePorts_one, fun b s => ⟨_, _, exec_decbcd b s, sampleOutputs_samples _ s, ?_,
    fun i hlen hi => lane_resultOutputs_of_length_le hlen hi, resultOutputs_ill _⟩⟩
  rw [lane_zero_resultOutputs_cons, dec_toNat_eq_nibbles]

end

section
/-! Rules R22 and R41: what PACKT and UNPKT sample, and the host's move from a write frame to the operand of
UNPKT. -/

namespace Sys2Proof.Machine

/-- SPEC of a result's `dout`: lane `i` is result byte `i`, 0x00 past the last one (rule R41). -/
theorem lane_resultOutputs (bs : List Byte) {i : Nat} (hi : i < 20) :
    lane i (resultOutputs bs).dout = bs.getD i 0#8 := by
  rw [resultOutputs_dout, lane_packLanes_dout bs i hi]

/-! The host feeds a write frame back without its pointer byte (rules R22 and R41). -/

/-- `DI[i] = DO[i+1]` (rule R41). -/
theorem lane_dinOfWriteFrame (dout : Dout) {i : Nat} (hi : i < 7) :
    lane i (dinOfWriteFrame dout) = lane (i + 1) dout := by
  refine BitVec.eq_of_getLsbD_eq fun k hk => ?_
  have hin : 8 * i + k < 56 := by omega
  have hidx : 8 + (8 * i + k) = 8 * (i + 1) + k := by omega
  simp only [dinOfWriteFrame, lane_getLsbD, BitVec.getLsbD_extractLsb', hin, hidx, decide_true,
    Bool.true_and]

/-- The operand UNPKT finds after that move is the frame read back. -/
@[simp] theorem frameOfDin_dinOfWriteFrame (w : WriteFrame) :
    frameOfDin (dinOfWriteFrame (packLanes 160 (writeFrameBytes w))) = readBack w := by
  simp [frameOfDin, readBack, lane_dinOfWriteFrame, writeFrameBytes]

/-! What a step samples on presented ports, and what the two packer commands sample. -/

/-- SPEC of `step` on presented ports: the host samples `F` of them. -/
theorem step_present (op : OpCode) (din : Din) (s : State) :
    step (s.present op din) =
      .next (sampleOutputs (portFunction thisBlock op din) (s.present op din)) := by
  rw [step, exec_eq_execWith, present_op, present_din, execWith_decodePorts]

theorem exec_packt (t : TimeValue) (s : State) :
    exec (.packt t) s =
      .next (sampleOutputs (resultOutputs (writeFrameBytes (packFrame thisBlock t))) s) := by
  rw [exec_eq_execWith, execWith_packt]

theorem exec_unpkt (f : ReadFrame) (s : State) :
    exec (.unpkt f) s =
      .next (sampleOutputs (resultOutputs (timeBytes (unpackFrame thisBlock f))) s) := by
  rw [exec_eq_execWith, execWith_unpkt]

/-- UNPKT of a sampled write frame unpacks the frame read back. -/
theorem portFunction_three_writeFrame (p : Params) (w : WriteFrame) :
    portFunction p 3#3 (dinOfWriteFrame (resultOutputs (writeFrameBytes w)).dout) =
      resultOutputs (timeBytes (unpackFrame p (readBack w))) := by
  rw [portFunction_three, resultOutputs_dout, frameOfDin_dinOfWriteFrame]

/-- The sampled year of UNPKT. -/
theorem lane_zero_unpackFrame (f : ReadFrame) :
    lane 0 (resultOutputs (timeBytes (unpackFrame thisBlock f))).dout = unpackYear thisBlock f.b5 f.b6 :=
  lane_resultOutputs _ (by decide)

/-- The sampled month of UNPKT. -/
theorem lane_one_unpackFrame (f : ReadFrame) :
    lane 1 (resultOutputs (timeBytes (unpackFrame thisBlock f))).dout = unpackMonth thisBlock f.b5 :=
  lane_resultOutputs _ (by decide)

/-- The sampled hour of UNPKT. -/
theorem lane_three_unpackFrame (f : ReadFrame) :
    lane 3 (resultOutputs (timeBytes (unpackFrame thisBlock f))).dout = unpackHour thisBlock f.b2 :=
  lane_resultOutputs _ (by decide)

/-- A command that samples `o` samples nothing else: the new sample is determined by the state reached. -/
theorem sample_unique {i : Instr} {s t : State} {o o' : Outputs}
    (hspec : exec i s = .next (sampleOutputs o s)) (hexec : exec i s = .next t)
    (hsamples : t.samples = s.samples ++ [o']) : o' = o := by
  obtain rfl : t = sampleOutputs o s := by
    rw [hexec] at hspec
    exact Host.Outcome.next.inj hspec
  rw [sampleOutputs_samples] at hsamples
  exact (List.singleton_inj.mp (List.append_cancel_left hsamples)).symm

end Sys2Proof.Machine

end

section
/-! Rules R52, R55, R67, R69 and R70 in numbers: the bits of a byte, and what the unpacker makes of them. -/

namespace Sys2Proof.Machine

/-- The mode bit is set in the second and in the fourth quarter of the 256 bytes (rules R6 and R67). -/
theorem getLsbD_six_iff (b : Byte) :
    b.getLsbD 6 = true ↔ (64 ≤ b.toNat ∧ b.toNat < 128) ∨ 192 ≤ b.toNat := by
  revert b; decide

theorem getLsbD_six_eq_false_iff (b : Byte) :
    b.getLsbD 6 = false ↔ b.toNat < 64 ∨ (128 ≤ b.toNat ∧ b.toNat < 192) := by
  rw [Bool.eq_false_iff, ne_eq, getLsbD_six_iff]
  omega

/-- `IsBcd` in numbers (rule R32). -/
theorem isBcd_iff (b : Byte) : isBcd b = true ↔ b.toNat / 16 ≤ 9 ∧ b.toNat % 16 ≤ 9 := by
  simp [isBcd]

/-- Bit 6 of an encoded byte is bit 2 of its tens digit (rule R52). -/
theorem enc_getLsbD_six (v : Byte) :
    (enc v).getLsbD 6 = true ↔ 40 ≤ v.toNat % 100 ∧ v.toNat % 100 ≤ 79 := by
  have hdigits : v.toNat % 100 = v.toNat / 10 % 10 * 10 + v.toNat % 10 := by omega
  rw [getLsbD_six_iff, enc_toNat, hdigits]
  omega

/-- Encoding and decoding keeps the two digits (rule R55). -/
theorem dec_enc_toNat (v : Byte) : (dec (enc v)).toNat = v.toNat % 100 := by
  rw [dec_toNat, enc_toNat]
  omega

/-- Two digits are the whole value up to 99 (rule R55). -/
theorem dec_enc_of_le {v : Byte} (hv : v.toNat ≤ 99) : dec (enc v) = v :=
  BitVec.eq_of_toNat_eq (by rw [dec_enc_toNat, Nat.mod_eq_of_lt (by omega)])

/-! The hour (rules R67 and R68). -/

theorem unpackHour_mode12 {b : Byte} (hmode : b.getLsbD 6 = true) :
    unpackHour thisBlock b = Config.hour12 b :=
  if_pos hmode

theorem unpackHour_mode24 {b : Byte} (hmode : b.getLsbD 6 = false) :
    unpackHour thisBlock b = dec b :=
  if_neg (Bool.eq_false_iff.mp hmode)

/-- A byte with bit 6 clear has a high nibble of 0 to 3 or of 8 to 11 (rule R67). -/
theorem dec_range_of_mode24 {b : Byte} (hmode : b.getLsbD 6 = false) :
    (dec b).toNat ≤ 45 ∨ (80 ≤ (dec b).toNat ∧ (dec b).toNat ≤ 125) := by
  have hlt := b.isLt
  rw [getLsbD_six_eq_false_iff] at hmode
  rw [dec_toNat]
  omega

/-- The high nibble of a byte that reads as the hour: its tens, capped at the last nibble that leaves bit 6 of
the byte clear (3, and 11 from hour 80 on). The hours 40 to 45 and 120 to 125 then have a low nibble above 9. -/
def mode24Tens (h : Nat) : Nat := if h ≤ 45 then min (h / 10) 3 else min (h / 10) 11

/-- A byte with bit 6 clear that `dec` reads as the hour. -/
def mode24Byte (h : Byte) : Byte :=
  BitVec.ofNat 8 (16 * mode24Tens h.toNat + (h.toNat - 10 * mode24Tens h.toNat))

/-- The high nibble is one with bit 6 of the byte clear, and leaves a low nibble over. -/
theorem mode24Tens_spec {h : Nat} (hh : h ≤ 45 ∨ (80 ≤ h ∧ h ≤ 125)) :
    (mode24Tens h ≤ 3 ∨ (8 ≤ mode24Tens h ∧ mode24Tens h ≤ 11)) ∧
      10 * mode24Tens h ≤ h ∧ h < 10 * mode24Tens h + 16 := by
  unfold mode24Tens
  split <;> omega

/-- `mode24Byte` reaches every hour of the 24-hour branch (rule R67). -/
theorem mode24Byte_spec {h : Byte} (hh : h.toNat ≤ 45 ∨ (80 ≤ h.toNat ∧ h.toNat ≤ 125)) :
    (mode24Byte h).getLsbD 6 = false ∧ dec (mode24Byte h) = h := by
  obtain ⟨hnibble, hle, hlt⟩ := mode24Tens_spec hh
  have hbyte : (mode24Byte h).toNat =
      16 * mode24Tens h.toNat + (h.toNat - 10 * mode24Tens h.toNat) := by
    rw [mode24Byte, BitVec.toNat_ofNat]
    omega
  constructor
  · rw [getLsbD_six_eq_false_iff, hbyte]
    omega
  · refine BitVec.eq_of_toNat_eq ?_
    rw [dec_toNat, hbyte]
    omega

/-! The month and the year (rules R69 and R70). -/

/-- The year sum in 8 bits (rule R70, decision D9). -/
theorem unpackYear_toNat (b5 b6 : Byte) :
    (unpackYear thisBlock b5 b6).toNat = (100 * (b5.getLsbD 7).toNat + (dec b6).toNat) % 256 := by
  simp [unpackYear]

/-- The mask leaves the low nibble and bit 4, which is the tens digit (rule R69). -/
theorem unpackMonth_toNat (b : Byte) :
    (unpackMonth thisBlock b).toNat = 10 * (b.getLsbD 4).toNat + (b.extractLsb' 0 4).toNat := by
  have hmask : (b &&& 0x1F#8).toNat = b.toNat % 32 := Nat.and_two_pow_sub_one_eq_mod b.toNat 5
  have hbit : (b.getLsbD 4).toNat = b.toNat / 16 % 2 := Nat.toNat_testBit b.toNat 4
  have hlow : (b.extractLsb' 0 4).toNat = b.toNat % 16 := loNibble_eq b
  rw [unpackMonth, thisBlock_monthMask, dec_toNat, hmask, hbit, hlow]
  omega

/-- Ten times one bit and a nibble (rule R69). -/
theorem unpackMonth_le (b : Byte) : (unpackMonth thisBlock b).toNat ≤ 25 := by
  have hbit := Bool.toNat_le (b.getLsbD 4)
  have hlow := (b.extractLsb' 0 4).isLt
  rw [unpackMonth_toNat]
  omega

/-- A byte that a mask clears has no bit where the mask has one. -/
theorem getLsbD_of_and_eq_zero {m mask : Byte} (hm : m &&& mask = 0) {k : Nat}
    (hk : mask.getLsbD k = true) : m.getLsbD k = false := by
  have hbit := congrArg (fun b => b.getLsbD k) hm
  simpa [hk] using hbit

/-- Flipping bits that a mask does not have changes nothing under the mask. -/
theorem xor_and_of_and_eq_zero (b : Byte) {m mask : Byte} (hm : m &&& mask = 0) :
    (b ^^^ m) &&& mask = b &&& mask := by
  refine BitVec.eq_of_getLsbD_eq fun k _ => ?_
  rw [BitVec.getLsbD_and, BitVec.getLsbD_and, BitVec.getLsbD_xor]
  cases hk : mask.getLsbD k with
  | false => rw [Bool.and_false, Bool.and_false]
  | true => rw [getLsbD_of_and_eq_zero hm hk, Bool.xor_false]

/-- Changing bits 6:5 of the month byte changes no field (rule R69). -/
theorem unpackFrame_b5_xor (B : ReadFrame) {m : Byte} (hm : m &&& 0x9F#8 = 0) :
    unpackFrame thisBlock { B with b5 := B.b5 ^^^ m } = unpackFrame thisBlock B := by
  have hmonth : m &&& 0x1F#8 = 0 := by
    rw [show 0x1F#8 = 0x9F#8 &&& 0x1F#8 from rfl, ← BitVec.and_assoc, hm]
    exact BitVec.zero_and
  have hcentury : (B.b5 ^^^ m).getLsbD 7 = B.b5.getLsbD 7 := by
    rw [BitVec.getLsbD_xor, getLsbD_of_and_eq_zero hm rfl, Bool.xor_false]
  simp only [unpackFrame, unpackYear, unpackMonth, thisBlock_centuryBit, thisBlock_monthMask, hcentury,
    xor_and_of_and_eq_zero B.b5 hmonth]

end Sys2Proof.Machine

end

section
/-! Rules R60, R61 and R65: the sampled write frame, and its hour read back. -/

open Sys2Proof Sys2Proof.Machine

/-- Settles O3: each lane of the sample is its byte of the packed frame. -/
theorem packtDrivesWriteFrame : Obligations.PacktDrivesWriteFrame := by
  unfold Obligations.PacktDrivesWriteFrame
  refine ⟨decodePorts_two, fun T s => ⟨_, _, exec_packt T s, sampleOutputs_samples _ s, ?_⟩⟩
  have hlane (i : Nat) (hi : i < 20) :=
    lane_resultOutputs (writeFrameBytes (packFrame thisBlock T)) hi
  exact ⟨hlane 0 (by decide), hlane 1 (by decide), hlane 2 (by decide), hlane 3 (by decide),
    hlane 4 (by decide), hlane 5 (by decide), hlane 6 (by decide), hlane 7 (by decide),
    fun i hlen hi => lane_resultOutputs_of_length_le hlen hi, resultOutputs_ill _⟩

/-- Settles O30: the pointer and the filler are parameters of the block. -/
theorem packedConstantBytes : Obligations.PackedConstantBytes := by
  unfold Obligations.PackedConstantBytes
  intro T s₁ s₂
  refine ⟨_, _, _, exec_packt T s₁, sampleOutputs_samples _ s₁, exec_packt T s₂,
    sampleOutputs_samples _ s₂, ?_, ?_⟩
  · exact lane_resultOutputs _ (by decide)
  · exact lane_resultOutputs _ (by decide)

/-- Settles O31: the hour comes back through `unpackHour (enc hour)`, where bit 6 of the encoded byte picks the
branch. -/
theorem packedHourIsTwentyFourHour : Obligations.PackedHourIsTwentyFourHour := by
  unfold Obligations.PackedHourIsTwentyFourHour
  intro T s
  have hpacked : lane 3 (resultOutputs (writeFrameBytes (packFrame thisBlock T))).dout = enc T.hour :=
    lane_resultOutputs _ (by decide)
  have hread : lane 3 (resultOutputs (timeBytes
      (unpackFrame thisBlock (readBack (packFrame thisBlock T))))).dout = unpackHour thisBlock (enc T.hour) :=
    lane_three_unpackFrame _
  have hmode24 (hh : T.hour.toNat ≤ 23) : (enc T.hour).getLsbD 6 = false := by
    rw [← Bool.not_eq_true, enc_getLsbD_six]
    omega
  have hstep := step_present 3#3 (dinOfWriteFrame (resultOutputs
    (writeFrameBytes (packFrame thisBlock T))).dout)
    (sampleOutputs (resultOutputs (writeFrameBytes (packFrame thisBlock T))) s)
  rw [portFunction_three_writeFrame] at hstep
  refine ⟨_, _, _, _, exec_packt T s, sampleOutputs_samples _ s, hpacked, fun hh => ⟨?_, ?_⟩, ?_, hstep,
    sampleOutputs_samples _ _, fun hh => ?_, fun hh => ?_⟩
  · rw [hpacked, enc_toNat]
    omega
  · rw [hpacked, hmode24 hh]
  · rw [hpacked, enc_getLsbD_six]
  · rw [hread, unpackHour_mode24 (hmode24 hh), dec_enc_of_le (by omega)]
  · rw [hread, unpackHour_mode12 ((enc_getLsbD_six _).mpr hh)]

end

section
/-! Rules R66, R67 and R69: the sampled time value, the branches of its hour and the bits of its month. -/

open Sys2Proof Sys2Proof.Machine

/-- Settles O4: each lane of the sample is its field of the unpacked frame. -/
theorem unpktDrivesTimeValue : Obligations.UnpktDrivesTimeValue := by
  unfold Obligations.UnpktDrivesTimeValue
  refine ⟨decodePorts_three, fun B s => ⟨_, _, exec_unpkt B s, sampleOutputs_samples _ s, ?_⟩⟩
  have hlane (i : Nat) (hi : i < 20) :=
    lane_resultOutputs (timeBytes (unpackFrame thisBlock B)) hi
  refine ⟨?_, hlane 1 (by decide), hlane 2 (by decide), hlane 3 (by decide), hlane 4 (by decide),
    hlane 5 (by decide), fun i hlen hi => lane_resultOutputs_of_length_le hlen hi, resultOutputs_ill _⟩
  rw [lane_zero_unpackFrame, unpackYear_toNat]

/-- Settles O34: the hour is `unpackHour` of `B[2]`, and `mode24Byte` reaches every hour in the range of
`dec` over the bytes with bit 6 clear. -/
theorem hourBranchIsBitSix : Obligations.HourBranchIsBitSix := by
  unfold Obligations.HourBranchIsBitSix
  refine ⟨fun B s => ⟨_, _, exec_unpkt B s, sampleOutputs_samples _ s, fun hmode => ?_,
    fun hmode => ?_, fun hbcd hle => ?_⟩, fun h => ⟨?_, fun hrange => ?_⟩⟩
  · rw [lane_three_unpackFrame, unpackHour_mode12 hmode]
  · rw [lane_three_unpackFrame, unpackHour_mode24 hmode]
  · have hmode : B.b2.getLsbD 6 = false := by
      rw [getLsbD_six_eq_false_iff]
      omega
    obtain ⟨-, hunits⟩ := (isBcd_iff B.b2).mp hbcd
    rw [lane_three_unpackFrame, unpackHour_mode24 hmode, dec_toNat]
    omega
  · rintro ⟨B, s, t, o, hmode, hexec, hsamples, rfl⟩
    rw [sample_unique (exec_unpkt B s) hexec hsamples, lane_three_unpackFrame, unpackHour_mode24 hmode]
    exact dec_range_of_mode24 hmode
  · obtain ⟨hmode, hdec⟩ := mode24Byte_spec hrange
    refine ⟨⟨0, 0, mode24Byte h, 0, 0, 0, 0⟩, State.reset, _, _, hmode, exec_unpkt _ _,
      sampleOutputs_samples _ _, ?_⟩
    rw [lane_three_unpackFrame, unpackHour_mode24 hmode, hdec]

/-- Settles O35: the mask drops bits 6:5 of `B[5]` from the month, and the year reads bit 7 of it alone. -/
theorem unpackedMonthIsMasked : Obligations.UnpackedMonthIsMasked := by
  unfold Obligations.UnpackedMonthIsMasked
  intro B m s hm
  refine ⟨_, _, exec_unpkt B s, sampleOutputs_samples _ s, ?_, ?_, ?_⟩
  · rw [lane_one_unpackFrame, unpackMonth_toNat]
  · rw [lane_one_unpackFrame]
    exact unpackMonth_le B.b5
  · rw [exec_unpkt, unpackFrame_b5_xor B hm]

end

section
/-! Rules R80 to R83: what FMTT samples, and the characters of its string as numbers. -/

namespace Sys2Proof.Machine

/-- The block has its formatter (rule R5, decision D12). -/
@[simp] theorem fmttOutputs_thisBlock (t : TimeValue) :
    fmttOutputs thisBlock t = resultOutputs (formatTime thisBlock t) :=
  if_pos thisBlock_hasFmt

theorem exec_fmtt (t : TimeValue) (s : State) :
    exec (.fmtt t) s = .next (sampleOutputs (resultOutputs (formatTime thisBlock t)) s) := by
  rw [exec_eq_execWith, execWith_fmtt, fmttOutputs_thisBlock]

/-! The ASCII code of a digit. -/

/-- SPEC of `digitChar`: `'0' + n`, as long as the sum fits a byte (rule R82). -/
theorem digitChar_toNat {n : Nat} (hn : n < 208) : (digitChar n).toNat = 0x30 + n := by
  rw [digitChar, BitVec.toNat_ofNat]
  omega

/-- The tens of a byte are at most 25, so an unguarded `'0' + v / 10` does not wrap (rule R82, decision D13). -/
theorem hiDigit_toNat (v : Byte) : (hiDigit v).toNat = 0x30 + v.toNat / 10 := by
  have hv := v.isLt
  exact digitChar_toNat (by omega)

theorem loDigit_toNat (v : Byte) : (loDigit v).toNat = 0x30 + v.toNat % 10 :=
  digitChar_toNat (by omega)

/-! A sampled character as a number. -/

section
variable {bs : List Byte} {i : Nat} {v : Byte}

theorem lane_toNat_of_hiDigit (hi : i < 20) (hchar : bs.getD i 0#8 = hiDigit v) :
    (lane i (resultOutputs bs).dout).toNat = 0x30 + v.toNat / 10 := by
  rw [lane_resultOutputs bs hi, hchar, hiDigit_toNat]

theorem lane_toNat_of_loDigit (hi : i < 20) (hchar : bs.getD i 0#8 = loDigit v) :
    (lane i (resultOutputs bs).dout).toNat = 0x30 + v.toNat % 10 := by
  rw [lane_resultOutputs bs hi, hchar, loDigit_toNat]

end

theorem calendarYear_thisBlock (year : Byte) : calendarYear thisBlock year = 2000 + year.toNat := rfl

/-- Character `i` of the year is its decimal digit of weight `10 ^ (3 - i)` (rules R80 and R81). -/
theorem formatTime_getD_year (p : Params) (t : TimeValue) {i : Nat} (hi : i < 4) :
    (formatTime p t).getD i 0#8 = digitChar (calendarYear p t.year / 10 ^ (3 - i) % 10) := by
  match i, hi with
  | 0, _ | 1, _ | 2, _ => rfl
  | 3, _ => rw [Nat.sub_self, Nat.pow_zero, Nat.div_one]; rfl

/-- The sampled characters of the year (rules R80 and R81). -/
theorem lane_toNat_year (t : TimeValue) {i : Nat} (hi : i < 4) :
    (lane i (resultOutputs (formatTime thisBlock t)).dout).toNat =
      0x30 + (2000 + t.year.toNat) / 10 ^ (3 - i) % 10 := by
  rw [lane_resultOutputs _ (by omega), formatTime_getD_year thisBlock t hi, calendarYear_thisBlock,
    digitChar_toNat (by omega)]

end Sys2Proof.Machine

open Sys2Proof Sys2Proof.Machine

/-- Settles O5: each lane of the sample is its character of the string, and a digit's code fits its byte for
every time value. -/
theorem fmttDrivesString : Obligations.FmttDrivesString := by
  unfold Obligations.FmttDrivesString
  refine ⟨decodePorts_four, fun T s => ⟨_, _, exec_fmtt T s, sampleOutputs_samples _ s, ?_⟩⟩
  have hchar (i : Nat) (hi : i < 20) := lane_resultOutputs (formatTime thisBlock T) hi
  have hunits := lane_toNat_year T (i := 3) (by decide)
  rw [Nat.sub_self, Nat.pow_zero, Nat.div_one] at hunits
  exact ⟨lane_toNat_year T (by decide), lane_toNat_year T (by decide), lane_toNat_year T (by decide), hunits,
    hchar 4 (by decide), lane_toNat_of_hiDigit (by decide) rfl, lane_toNat_of_loDigit (by decide) rfl,
    hchar 7 (by decide), lane_toNat_of_hiDigit (by decide) rfl, lane_toNat_of_loDigit (by decide) rfl,
    hchar 10 (by decide), lane_toNat_of_hiDigit (by decide) rfl, lane_toNat_of_loDigit (by decide) rfl,
    hchar 13 (by decide), lane_toNat_of_hiDigit (by decide) rfl, lane_toNat_of_loDigit (by decide) rfl,
    hchar 16 (by decide), lane_toNat_of_hiDigit (by decide) rfl, lane_toNat_of_loDigit (by decide) rfl,
    hchar 19 (by decide), resultOutputs_ill _⟩

/-- Settles O45: the calendar year is at least 2000 and at most 2255, so its four digits are its whole decimal
form. -/
theorem formattedYearIsCalendarYear : Obligations.FormattedYearIsCalendarYear := by
  unfold Obligations.FormattedYearIsCalendarYear
  intro T s
  have hyear := T.year.isLt
  have hdigit (i : Nat) (hi : i < 4) := lane_toNat_year T hi
  refine ⟨_, _, exec_fmtt T s, sampleOutputs_samples _ s, fun i hi => ?_, ?_, ?_, ?_⟩
  · rw [hdigit i hi]
    omega
  · rw [hdigit 0 (by decide), hdigit 1 (by decide), hdigit 2 (by decide), hdigit 3 (by decide)]
    split <;> omega
  · refine BitVec.eq_of_toNat_eq ?_
    rw [hdigit 0 (by decide), BitVec.toNat_ofNat]
    omega
  · rw [hdigit 1 (by decide)]
    omega

end

section
/-! Rules R15 and R90: every step samples `F` of the inputs, the safety record follows `ill`, and a session is
such steps one after another. -/

namespace Sys2Proof.Machine

/-! The step, once (rules R15 and R110). -/

/-- SPEC of `stepWith`: the host samples what the ports show. -/
theorem stepWith_eq (p : Params) (s : State) :
    stepWith p s = .next (sampleOutputs (s.outputs p) s) :=
  execWith_decodePorts p s.op s.din s

/-- The step of this block is the parametric one at this block's parameters (rule R16). -/
theorem step_eq_stepWith (s : State) : step s = stepWith thisBlock s :=
  exec_eq_execWith (decodePorts s.op s.din) s

/-- The one state a step can reach. -/
theorem eq_of_stepWith_eq_next {p : Params} {s t : State} (hstep : stepWith p s = .next t) :
    t = sampleOutputs (s.outputs p) s := by
  rw [stepWith_eq] at hstep
  exact (Host.Outcome.next.inj hstep).symm

/-- SPEC of `exec`: every command completes and the host samples `F` of its op code and operands. -/
theorem exec_eq (i : Instr) (s : State) :
    exec i s = .next (sampleOutputs (portFunction thisBlock (opCodeOf i) (dinOf i)) s) := by
  rw [exec_eq_execWith, execWith_eq]

/-! The level `ill` (rule R90). -/

/-- The exact set of op codes that raise it. -/
theorem illLevel_iff (hasFmt : Bool) (op : OpCode) :
    illLevel hasFmt op = true ↔ op = 5 ∨ op = 6 ∨ op = 7 ∨ (op = 4 ∧ hasFmt = false) := by
  simp [illLevel, or_assoc]

/-- Without a formatter op code 4 answers as a reserved code (rule R86). -/
theorem fmttOutputs_of_absent {p : Params} (hfmt : p.hasFmt = false) (t : TimeValue) :
    fmttOutputs p t = illegalOutputs :=
  if_neg (Bool.eq_false_iff.mp hfmt)

/-- Where the level is raised, `F` is the outputs of a reserved code (rule R43). -/
theorem portFunction_of_illLevel {p : Params} {op : OpCode} (hill : illLevel p.hasFmt op = true)
    (din : Din) :
    portFunction p op din = illegalOutputs := by
  rcases (illLevel_iff _ _).mp hill with rfl | rfl | rfl | ⟨rfl, hfmt⟩
  · exact portFunction_five p din
  · exact portFunction_six p din
  · exact portFunction_seven p din
  · exact (portFunction_four p din).trans (fmttOutputs_of_absent hfmt _)

/-- `dout` is 0x00 while `ill` is raised. -/
theorem portFunction_dout_of_ill {p : Params} {op : OpCode} {din : Din}
    (hill : (portFunction p op din).ill = true) : (portFunction p op din).dout = 0 := by
  rw [portFunction_ill] at hill
  rw [portFunction_of_illLevel hill, illegalOutputs_dout]

/-- `F` reads `HAS_FMT` at op code 4 alone (rule R86). -/
theorem portFunction_hasFmt_irrelevant (p : Params) (present : Bool) {op : OpCode} (hop : op ≠ 4)
    (din : Din) :
    portFunction { p with hasFmt := present } op din = portFunction p op din := by
  simp only [portFunction, hop, false_and]
  rfl

/-! What a sample does to the safety record. -/

/-- A sample leaves the record clear exactly when it was clear and the sample is a result. -/
theorem sampleOutputs_isSafe (o : Outputs) (s : State) :
    (sampleOutputs o s).isSafe = (s.isSafe && !o.ill) := by
  cases hill : o.ill <;> simp [State.isSafe, hill]

/-- Presenting a command records nothing. -/
@[simp] theorem present_isSafe (s : State) (op : OpCode) (din : Din) :
    (s.present op din).isSafe = s.isSafe := rfl

/-- A sample with `dout` 0x00 where `ill` is raised keeps the record faithful to the samples. -/
theorem coherent_sampleOutputs {o : Outputs} {s : State} (hs : s.coherent)
    (ho : o.ill = true → o.dout = 0) : (sampleOutputs o s).coherent := by
  obtain ⟨hrecord, hzero⟩ := hs
  refine ⟨?_, fun x hx => ?_⟩
  · cases hill : o.ill with
    | true => simp [hill]
    | false => simpa [hill] using hrecord
  · rw [sampleOutputs_samples, List.mem_append, List.mem_singleton] at hx
    rcases hx with hold | rfl
    · exact hzero x hold
    · exact ho

/-- The invariant step: coherence is kept, and a fault in the record stays there. -/
theorem stepWith_keeps_coherent {p : Params} {s t : State} (hs : s.coherent)
    (hstep : stepWith p s = .next t) :
    t.coherent ∧ (s.isSafe = false → t.isSafe = false) := by
  obtain rfl := eq_of_stepWith_eq_next hstep
  refine ⟨coherent_sampleOutputs hs portFunction_dout_of_ill, fun hfault => ?_⟩
  rw [sampleOutputs_isSafe, hfault, Bool.false_and]

theorem reset_coherent : State.reset.coherent := ⟨by simp [State.reset], by simp [State.reset]⟩

/-! A session, one equation per constructor of the list of commands. -/

@[simp] theorem session_nil (p : Params) (s : State) : session p [] s = .next s := rfl

/-- The first command is sampled, then the session goes on from there. -/
@[simp] theorem session_cons (p : Params) (c : Command) (cs : List Command) (s : State) :
    session p (c :: cs) s =
      session p cs (sampleOutputs (portFunction p c.op c.din) (s.present c.op c.din)) := by
  rw [session, stepWith_eq, present_outputs]

/-- Every session completes, with one sample of `F` for each command (rules R15 and R27). -/
theorem session_completes (p : Params) (cs : List Command) (s : State) : ∃ t : State,
    session p cs s = .next t ∧ t.samples = s.samples ++ cs.map (fun c => portFunction p c.op c.din) := by
  induction cs generalizing s with
  | nil => exact ⟨s, session_nil p s, (List.append_nil _).symm⟩
  | cons c cs ih =>
    obtain ⟨t, hrun, hsamples⟩ :=
      ih (sampleOutputs (portFunction p c.op c.din) (s.present c.op c.din))
    refine ⟨t, (session_cons p c cs s).trans hrun, ?_⟩
    rw [hsamples, sampleOutputs_samples, present_samples, List.append_assoc, List.singleton_append,
      List.map_cons]

/-- The new samples of a session are determined by its commands. -/
theorem session_samples_unique {p : Params} {cs : List Command} {s t : State} {outs : List Outputs}
    (hrun : session p cs s = .next t) (hsamples : t.samples = s.samples ++ outs) :
    outs = cs.map (fun c => portFunction p c.op c.din) := by
  obtain ⟨t', hrun', hsamples'⟩ := session_completes p cs s
  obtain rfl : t = t' := Host.Outcome.next.inj (hrun.symm.trans hrun')
  exact List.append_cancel_left (hsamples.symm.trans hsamples')

/-- A command's sample raises `ill` exactly when the command is not safe. -/
theorem portFunction_not_ill (p : Params) (c : Command) :
    (!(portFunction p c.op c.din).ill) = c.isSafe p := by
  rw [portFunction_ill, Command.isSafe]

/-- The record after a session is clear exactly when it was clear and every command is safe (rule R90). -/
theorem session_isSafe_iff {p : Params} {cs : List Command} {s t : State} (hrun : session p cs s = .next t) :
    t.isSafe = true ↔ s.isSafe = true ∧ ∀ c ∈ cs, c.isSafe p = true := by
  induction cs generalizing s with
  | nil =>
    obtain rfl : s = t := Host.Outcome.next.inj hrun
    simp
  | cons c cs ih =>
    rw [session_cons] at hrun
    rw [ih hrun, sampleOutputs_isSafe, present_isSafe, portFunction_not_ill, Bool.and_eq_true, and_assoc,
      List.forall_mem_cons]

end Sys2Proof.Machine

open Sys2Proof Sys2Proof.Machine

/-- Settles O20: a step appends one sample of `F`, and `F` has `dout` 0x00 where it raises `ill`. -/
theorem stepKeepsCoherence : Obligations.StepKeepsCoherence := by
  unfold Obligations.StepKeepsCoherence
  refine ⟨fun s t hs hstep => ?_, fun p s t => stepWith_keeps_coherent⟩
  rw [step_eq_stepWith] at hstep
  exact stepWith_keeps_coherent hs hstep

/-- Settles O22, by induction over the commands. -/
theorem sessionSamplesEachCommandAlone : Obligations.SessionSamplesEachCommandAlone := by
  unfold Obligations.SessionSamplesEachCommandAlone
  exact session_completes

/-- Settles O23, by induction over the commands: each sample keeps a fault that the record already holds. -/
theorem sessionIsSafeExactlyWithoutReserved : Obligations.SessionIsSafeExactlyWithoutReserved := by
  unfold Obligations.SessionIsSafeExactlyWithoutReserved
  exact fun p cs s t => session_isSafe_iff

/-- Settles O24: the sample of a command is a function of the command, so the pairs are the permuted commands
under one map. -/
theorem commandOrderDoesNotMatter : Obligations.CommandOrderDoesNotMatter := by
  unfold Obligations.CommandOrderDoesNotMatter
  intro p cs ds s s' t t' outs outs' hperm hrun hsamples hrun' hsamples'
  rw [session_samples_unique hrun hsamples, session_samples_unique hrun' hsamples',
    ← List.map_prod_left_eq_zip, ← List.map_prod_left_eq_zip]
  exact hperm.map _

/-- Settles O25: the reserved command samples a reserved code's outputs and only the record keeps them. -/
theorem reservedCommandLeavesNoTrace : Obligations.ReservedCommandLeavesNoTrace := by
  unfold Obligations.ReservedCommandLeavesNoTrace
  intro p c op din s hop
  have hill : illLevel p.hasFmt op = true := by
    rw [illLevel_iff]
    tauto
  obtain ⟨t, hrun, hsamples⟩ := session_completes p [c, ⟨op, din⟩, c] s
  have hreserved : portFunction p op din = ⟨0, true⟩ := portFunction_of_illLevel hill din
  refine ⟨t, portFunction p c.op c.din, hrun, ?_, ?_⟩
  · rw [hsamples, List.map_cons, List.map_cons, List.map_singleton, hreserved]
  · rw [← Bool.not_eq_true, session_isSafe_iff hrun]
    rintro ⟨-, hsafe⟩
    have hop_safe := hsafe ⟨op, din⟩ (by simp)
    rw [Command.isSafe, hill] at hop_safe
    exact Bool.false_ne_true hop_safe

/-- Settles O11: the sample of a step is what the ports show. -/
theorem stepComputesPortFunction : Obligations.StepComputesPortFunction := by
  unfold Obligations.StepComputesPortFunction
  exact stepWith_eq

/-- Settles O12: `F` answers a reserved code's outputs exactly where the level is raised. -/
theorem illDependsOnOpAlone : Obligations.IllDependsOnOpAlone := by
  unfold Obligations.IllDependsOnOpAlone
  intro p op din
  refine ⟨?_, portFunction_dout_of_ill⟩
  rw [portFunction_ill, illLevel_iff]

/-- Settles O13: the level of op code 4 is raised without a formatter, and no other op code
reads `HAS_FMT`. -/
theorem absentFormatterChangesOnlyOpFour : Obligations.AbsentFormatterChangesOnlyOpFour := by
  unfold Obligations.AbsentFormatterChangesOnlyOpFour
  intro p present s T
  refine ⟨fmttOutputs_of_absent rfl T, fun hop => ?_, fun hop => ?_⟩
  · have hill : illLevel false s.op = true := by
      rw [illLevel_iff]
      tauto
    rw [stepWith_eq, State.outputs, portFunction_of_illLevel hill, raiseIllegal]
  · rw [stepWith_eq, stepWith_eq, State.outputs, portFunction_hasFmt_irrelevant p present hop, State.outputs]

/-- Settles O14: the sample of a step is a function of the two inputs. -/
theorem noCommandObservesThePast : Obligations.NoCommandObservesThePast := by
  unfold Obligations.NoCommandObservesThePast
  intro p s₁ s₂ hop hdin
  have houtputs : s₁.outputs p = s₂.outputs p := by
    rw [State.outputs, State.outputs, hop, hdin]
  refine ⟨houtputs, _, _, s₁.outputs p, stepWith_eq p s₁, stepWith_eq p s₂, sampleOutputs_samples _ s₁, ?_⟩
  rw [sampleOutputs_samples, houtputs]

/-- Settles O48: neither presenting a command nor sampling it stores an output. -/
theorem outputPortsFollowInputsAtOnce : Obligations.OutputPortsFollowInputsAtOnce := by
  unfold Obligations.OutputPortsFollowInputsAtOnce
  intro p s op din
  exact ⟨present_outputs p s op din, _, stepWith_eq p _, sampleOutputs_samples _ _,
    sampleOutputs_outputs p _ _⟩

/-- Settles O49: the ports are `F` of the inputs the host holds. -/
theorem illPortIsLevelOfOp : Obligations.IllPortIsLevelOfOp := by
  unfold Obligations.IllPortIsLevelOfOp
  exact fun p s => ⟨portFunction_ill p s.op s.din, portFunction_dout_of_ill⟩

/-- Settles O6: each reserved code raises the illegal-operation condition and nothing else. -/
theorem reservedCodesDriveZeroAndIll : Obligations.ReservedCodesDriveZeroAndIll := by
  unfold Obligations.ReservedCodesDriveZeroAndIll
  rintro i s (rfl | rfl | rfl) <;> rw [exec_eq_execWith]
  · exact execWith_reserved5 thisBlock s
  · exact execWith_reserved6 thisBlock s
  · exact execWith_reserved7 thisBlock s

/-- Settles O8: every command samples `F` of its own ports, which raises `ill` exactly for no operation. -/
theorem everyCommandKeepsInputsAndRecord : Obligations.EveryCommandKeepsInputsAndRecord := by
  unfold Obligations.EveryCommandKeepsInputsAndRecord
  intro i s
  refine ⟨_, _, exec_eq i s, sampleOutputs_block _ s, sampleOutputs_op _ s, sampleOutputs_din _ s,
    sampleOutputs_samples _ s, ?_⟩
  rw [sampleOutputs_safetyRecord, portFunction_ill, illLevel_opCodeOf]
  cases i.isOperation thisBlock.hasFmt <;> rfl

/-- Settles O9: `step` is that command and no more. -/
theorem stepRunsDecodedCommand : Obligations.StepRunsDecodedCommand := by
  unfold Obligations.StepRunsDecodedCommand
  exact fun s => rfl

/-- Settles O21: nothing is sampled or recorded at reset, and ENCBCD of 0 is 0. -/
theorem resetIsCoherentAndSafe : Obligations.ResetIsCoherentAndSafe := by
  unfold Obligations.ResetIsCoherentAndSafe
  exact ⟨reset_coherent, rfl, rfl, by decide, by decide⟩

/-- Settles O50: FMTT, PACKT and UNPKT of this block are the parametric ones at `thisBlock`. -/
theorem stepIsParametricStepOfThisBlock : Obligations.StepIsParametricStepOfThisBlock := by
  unfold Obligations.StepIsParametricStepOfThisBlock
  exact ⟨step_eq_stepWith, exec_eq_execWith⟩

end

section
/-! Rules R41 and R42: the command word, its eight bytes, and the operand bytes an op code reads. -/

namespace Sys2Proof.Machine

/-! The two fields of a command word (rule R42). -/

@[simp] theorem opField_append (din : Din) (op : OpCode) : opField (din ++ op) = op :=
  BitVec.extractLsb'_append_eq_right

@[simp] theorem dinField_append (din : Din) (op : OpCode) : dinField (din ++ op) = din :=
  BitVec.extractLsb'_append_eq_left

theorem decode_encode (i : Instr) : decode (encode i) = i := by
  rw [decode, encode, opField_append, dinField_append, decodePorts_opCodeOf_dinOf]

/-! Command words in bytes (log entry 8). -/

@[simp] theorem length_bytesOfNat (n w : Nat) : (bytesOfNat n w).length = n := by
  induction n generalizing w with
  | zero => rfl
  | succ n ih => rw [bytesOfNat, List.length_cons, ih]

/-- Byte `i` of a number. -/
theorem bytesOfNat_getD {n i : Nat} (hi : i < n) (w : Nat) :
    (bytesOfNat n w).getD i 0#8 = BitVec.ofNat 8 (w / 256 ^ i) := by
  induction n generalizing i w with
  | zero => omega
  | succ n ih =>
    cases i with
    | zero => rw [bytesOfNat, List.getD_cons_zero, Nat.pow_zero, Nat.div_one]
    | succ i => rw [bytesOfNat, List.getD_cons_succ, ih (by omega), Nat.div_div_eq_div_mul, ← Nat.pow_succ']

/-- Lane `i` of a number on a port is its byte `i`. -/
theorem lane_ofNat {w i : Nat} (hi : 8 * i + 8 ≤ w) (n : Nat) :
    lane i (BitVec.ofNat w n) = BitVec.ofNat 8 (n / 256 ^ i) := by
  refine BitVec.eq_of_getLsbD_eq fun k hk => ?_
  have hpow : 256 ^ i = 2 ^ (8 * i) := (Nat.pow_mul 2 8 i).symm
  have hin : 8 * i + k < w := by omega
  simp only [lane_getLsbD, BitVec.getLsbD_ofNat, hpow, Nat.testBit_div_two_pow, hk, hin, decide_true,
    Bool.true_and, Nat.add_comm k]

/-- The eight bytes of a number, packed again. -/
theorem packLanes_bytesOfNat (n : Nat) : packLanes 64 (bytesOfNat 8 n) = BitVec.ofNat 64 n := by
  refine eq_of_lanes (n := 8) fun i hi => ?_
  rw [lane_packLanes 64 _ i (by omega), bytesOfNat_getD hi, lane_ofNat (by omega)]

/-- SPEC of the check on bytes: eight of them, nothing above bit 58. -/
theorem commandBytesWellFormed_iff (bs : List Byte) :
    commandBytesWellFormed bs = true ↔ bs.length = 8 ∧ (bs.getD 7 0).toNat < 8 := by
  rw [commandBytesWellFormed, commandBytesLength, commandBytesTop, Bool.and_eq_true, beq_iff_eq,
    decide_eq_true_iff]
  rfl

/-- SPEC of `decodeBytes`: what it answers for bytes that pass the check, and that it answers nothing else. -/
theorem decodeBytes_eq_ok_iff (bs : List Byte) (i : Instr) :
    decodeBytes bs = .ok i ↔
      commandBytesWellFormed bs = true ∧ decode ((packLanes 64 bs).setWidth 59) = i := by
  cases hlen : commandBytesLength bs <;> cases htop : commandBytesTop bs <;>
    simp [decodeBytes, commandBytesWellFormed, hlen, htop]

/-- The bytes of a number below `2 ^ 59` pass the check. -/
theorem commandBytesWellFormed_bytesOfNat {n : Nat} (hn : n < 2 ^ 59) :
    commandBytesWellFormed (bytesOfNat 8 n) = true := by
  refine (commandBytesWellFormed_iff _).mpr ⟨length_bytesOfNat 8 n, ?_⟩
  have htop : (bytesOfNat 8 n).getD 7 0 = BitVec.ofNat 8 (n / 256 ^ 7) := bytesOfNat_getD (by decide) n
  rw [htop, BitVec.toNat_ofNat]
  omega

/-- The command in the bytes of a number. -/
theorem decode_packLanes_bytesOfNat (n : Nat) :
    decode ((packLanes 64 (bytesOfNat 8 n)).setWidth 59) = decode (BitVec.ofNat 59 n) := by
  rw [packLanes_bytesOfNat, BitVec.setWidth_ofNat_of_le (by decide)]

theorem decodeBytes_encodeBytes (i : Instr) : decodeBytes (encodeBytes i) = .ok i := by
  refine (decodeBytes_eq_ok_iff _ i).mpr ⟨commandBytesWellFormed_bytesOfNat (encode i).isLt, ?_⟩
  rw [encodeBytes, decode_packLanes_bytesOfNat, BitVec.ofNat_toNat, BitVec.setWidth_eq, decode_encode]

/-- What the opcode-table decoder reads is the command of the word's low bits. -/
theorem eq_decode_of_decodeTableWord {nbits w : Nat} {i : Instr} (hword : decodeTableWord nbits w = some i) :
    i = decode (BitVec.ofNat 59 (w % 2 ^ nbits)) := by
  unfold decodeTableWord at hword
  split at hword
  next =>
    have hok : decodeBytes (bytesOfNat 8 (w % 2 ^ nbits)) = .ok i := by
      cases hbytes : decodeBytes (bytesOfNat 8 (w % 2 ^ nbits)) with
      | error e => rw [hbytes] at hword; cases hword
      | ok j => rw [hbytes] at hword; cases hword; rfl
    obtain ⟨-, hi⟩ := (decodeBytes_eq_ok_iff _ i).mp hok
    rw [← hi, decode_packLanes_bytesOfNat]
  next => cases hword

/-! Encoding after decoding: the mask of the operand bits (rule R41). -/

@[simp] theorem opCodeOf_decodePorts (op : OpCode) (din : Din) : opCodeOf (decodePorts op din) = op := by
  rcases opCode_cases op with rfl | rfl | rfl | rfl | rfl | rfl | rfl | rfl <;> rfl

/-- Lanes of a bitwise AND. -/
theorem lane_and {w : Nat} (i : Nat) (x y : BitVec w) : lane i (x &&& y) = lane i x &&& lane i y :=
  BitVec.extractLsb'_and

/-- How many operand bytes an op code reads or presents, from `DI[0]` on (rule R41). -/
def operandCount (op : OpCode) : Nat :=
  match op.toFin with
  | 0 => 1
  | 1 => 1
  | 2 => 6
  | 3 => 7
  | 4 => 6
  | 5 => 0
  | 6 => 0
  | 7 => 0

/-- A decoded command holds the first bytes of `din`. -/
theorem operandBytesOf_decodePorts (op : OpCode) (din : Din) :
    operandBytesOf (decodePorts op din) = (readFrameBytes (frameOfDin din)).take (operandCount op) := by
  rcases opCode_cases op with rfl | rfl | rfl | rfl | rfl | rfl | rfl | rfl <;> rfl

/-- The mask keeps the lanes of those bytes and no other. -/
theorem lane_operandMask (op : OpCode) {i : Nat} (hi : i < 7) :
    lane i (operandMask op) = if i < operandCount op then 0xFF#8 else 0#8 := by
  revert op i; decide

/-- The seven bytes of `din` are its lanes. -/
theorem readFrameBytes_frameOfDin_getD (din : Din) {i : Nat} (hi : i < 7) :
    (readFrameBytes (frameOfDin din)).getD i 0#8 = lane i din := by
  match i, hi with
  | 0, _ | 1, _ | 2, _ | 3, _ | 4, _ | 5, _ | 6, _ => rfl

/-- Encoding a decoded command clears the lanes its op code has no operand in. -/
theorem dinOf_decodePorts (op : OpCode) (din : Din) :
    dinOf (decodePorts op din) = din &&& operandMask op := by
  refine eq_of_lanes (n := 7) fun i hi => ?_
  rw [dinOf, lane_packLanes_din _ i hi, operandBytesOf_decodePorts, lane_and, lane_operandMask op hi]
  split
  next hread =>
    rw [List.getD_eq_getElem?_getD, List.getElem?_take_of_lt hread, ← List.getD_eq_getElem?_getD,
      readFrameBytes_frameOfDin_getD din hi]
    exact BitVec.and_allOnes.symm
  next hread =>
    rw [List.getD_eq_default _ _ (by rw [List.length_take]; omega), BitVec.and_zero]

/-! The operand bytes an op code does not read (rules R41 and R93). -/

theorem timeOfDin_congr {d₁ d₂ : Din} (h : ∀ i, i < 6 → lane i d₁ = lane i d₂) :
    timeOfDin d₁ = timeOfDin d₂ := by
  simp only [timeOfDin, h 0 (by decide), h 1 (by decide), h 2 (by decide), h 3 (by decide),
    h 4 (by decide), h 5 (by decide)]

/-- `B[3]` reaches no field (rule R71), so two frames that agree on the other bytes unpack alike. -/
theorem unpackFrame_frameOfDin_congr (p : Params) {d₁ d₂ : Din}
    (h : ∀ i, i < 7 → i ≠ 3 → lane i d₁ = lane i d₂) :
    unpackFrame p (frameOfDin d₁) = unpackFrame p (frameOfDin d₂) := by
  simp only [unpackFrame, frameOfDin, h 0 (by decide) (by decide), h 1 (by decide) (by decide),
    h 2 (by decide) (by decide), h 4 (by decide) (by decide), h 5 (by decide) (by decide),
    h 6 (by decide) (by decide)]

/-- `F` depends on the bytes its op code reads alone. -/
theorem portFunction_congr (p : Params) {op : OpCode} {d₁ d₂ : Din}
    (hbyte : op = 0 ∨ op = 1 → lane 0 d₁ = lane 0 d₂)
    (htime : op = 2 ∨ op = 4 → ∀ i, i < 6 → lane i d₁ = lane i d₂)
    (hframe : op = 3 → ∀ i, i < 7 → i ≠ 3 → lane i d₁ = lane i d₂) :
    portFunction p op d₁ = portFunction p op d₂ := by
  rcases opCode_cases op with rfl | rfl | rfl | rfl | rfl | rfl | rfl | rfl
  · rw [portFunction_zero, portFunction_zero, byteOfDin, hbyte (.inl rfl), byteOfDin]
  · rw [portFunction_one, portFunction_one, byteOfDin, hbyte (.inr rfl), byteOfDin]
  · rw [portFunction_two, portFunction_two, timeOfDin_congr (htime (.inl rfl))]
  · rw [portFunction_three, portFunction_three, unpackFrame_frameOfDin_congr p (hframe rfl)]
  · rw [portFunction_four, portFunction_four, timeOfDin_congr (htime (.inr rfl))]
  · rw [portFunction_five, portFunction_five]
  · rw [portFunction_six, portFunction_six]
  · rw [portFunction_seven, portFunction_seven]

end Sys2Proof.Machine

open Sys2Proof Sys2Proof.Machine

/-- Settles O16: the fields of the encoded word are the ports of the command, and its eight bytes pack to the
word again. -/
theorem decodeOfEncodeIsIdentity : Obligations.DecodeOfEncodeIsIdentity := by
  unfold Obligations.DecodeOfEncodeIsIdentity
  exact fun i => ⟨decode_encode i, decodeBytes_encodeBytes i⟩

/-- Settles O17, lane by lane of `din`. -/
theorem encodeOfDecodeClearsOnlyDontCares : Obligations.EncodeOfDecodeClearsOnlyDontCares := by
  unfold Obligations.EncodeOfDecodeClearsOnlyDontCares
  intro cw
  rw [encode, decode, dinOf_decodePorts, opCodeOf_decodePorts]

/-- Settles O10: placing a word puts its two fields on the ports, which is what the decoder reads. -/
theorem placedWordIsTheCommandRun : Obligations.PlacedWordIsTheCommandRun := by
  unfold Obligations.PlacedWordIsTheCommandRun
  intro s nbits w i hword
  rw [eq_decode_of_decodeTableWord hword, step, State.withFetchWord, present_op, present_din, decode]

/-- Settles O15: `F` depends on the bytes its op code reads alone, and a step samples `F`. -/
theorem unreadOperandBytesDoNotMatter : Obligations.UnreadOperandBytesDoNotMatter := by
  unfold Obligations.UnreadOperandBytesDoNotMatter
  intro op d₁ d₂ hbyte htime hframe s
  refine ⟨_, _, portFunction thisBlock op d₁, step_present op d₁ s, step_present op d₂ s,
    sampleOutputs_samples _ _, ?_⟩
  rw [portFunction_congr thisBlock hbyte htime hframe, sampleOutputs_samples, present_samples]

/-- Settles O18: the decoder answers a command for every list of bytes that passes the check. -/
theorem onlyCommandWordsDecode : Obligations.OnlyCommandWordsDecode := by
  unfold Obligations.OnlyCommandWordsDecode
  intro bs
  simp only [decodeBytes_eq_ok_iff, exists_and_left, exists_eq', and_true]
  exact commandBytesWellFormed_iff bs

/-- Settles O19: each vector's word, decoded by evaluation. -/
theorem vectorWordsDecode : Obligations.VectorWordsDecode := by
  unfold Obligations.VectorWordsDecode
  exact ⟨by decide, by decide, by decide, by decide, by decide, by decide, by decide, by decide⟩

end

section
/-! Rules R51, R52, R55 and R56: the wrap of ENCBCD, and the round trips of the codec through the machine. -/

namespace Sys2Proof.Machine

/-- Encoding reads the last two decimal digits alone (rule R51). -/
theorem enc_congr {v w : Byte} (hmod : v.toNat % 100 = w.toNat % 100) : enc v = enc w := by
  refine BitVec.eq_of_toNat_eq ?_
  rw [enc_toNat, enc_toNat]
  omega

/-- A value of 100 or more encodes as its remainder (rule R51). -/
theorem enc_ofNat_mod (v : Byte) : enc (BitVec.ofNat 8 (v.toNat % 100)) = enc v := by
  refine enc_congr ?_
  rw [BitVec.toNat_ofNat]
  omega

/-- An encoded byte is packed BCD (rule R52). -/
theorem isBcd_enc (v : Byte) : isBcd (enc v) = true := by
  rw [isBcd_iff, enc_toNat]
  omega

/-- Bit 7 of a byte is set from 128 on. -/
theorem getLsbD_seven_iff (b : Byte) : b.getLsbD 7 = true ↔ 128 ≤ b.toNat := by
  revert b; decide

/-- Bit 7 of an encoded byte is bit 3 of its tens digit (rule R52). -/
theorem enc_getLsbD_seven (v : Byte) : (enc v).getLsbD 7 = true ↔ 80 ≤ v.toNat % 100 := by
  rw [getLsbD_seven_iff, enc_toNat]
  omega

/-- An encoded byte has no bit above bit 4 exactly up to 19 (rule R52). -/
theorem enc_lt_iff (v : Byte) : (enc v).toNat < 32 ↔ v.toNat % 100 ≤ 19 := by
  rw [enc_toNat]
  omega

/-- Decoding, then encoding keeps a packed-BCD byte (rule R56). -/
theorem enc_dec_of_isBcd {b : Byte} (hb : isBcd b = true) : enc (dec b) = b := by
  obtain ⟨htens, hunits⟩ := (isBcd_iff b).mp hb
  refine BitVec.eq_of_toNat_eq ?_
  rw [enc_toNat, dec_toNat]
  omega

/-- It keeps no other byte, for what is encoded is packed BCD (rule R56). -/
theorem enc_dec_eq_iff (b : Byte) : enc (dec b) = b ↔ isBcd b = true :=
  ⟨fun h => h ▸ isBcd_enc (dec b), enc_dec_of_isBcd⟩

/-- The host feeds a one-byte result back in `DI[0]`. -/
@[simp] theorem byteOfDin_dinOfByte (b : Byte) : byteOfDin (dinOfByte (resultOutputs [b]).dout) = b := by
  rw [dinOfByte, lane_zero_resultOutputs_cons, byteOfDin_packLanes]

/-- DECBCD of a sampled byte. -/
theorem portFunction_one_byte (p : Params) (b : Byte) :
    portFunction p 1#3 (dinOfByte (resultOutputs [b]).dout) = resultOutputs [dec b] := by
  rw [portFunction_one, byteOfDin_dinOfByte]

/-- ENCBCD of a sampled byte. -/
theorem portFunction_zero_byte (p : Params) (b : Byte) :
    portFunction p 0#3 (dinOfByte (resultOutputs [b]).dout) = resultOutputs [enc b] := by
  rw [portFunction_zero, byteOfDin_dinOfByte]

/-- A step on presented ports, where `F` of them is known. -/
theorem step_present_of_eq {op : OpCode} {din : Din} {o : Outputs}
    (hports : portFunction thisBlock op din = o) (s : State) :
    step (s.present op din) = .next (sampleOutputs o (s.present op din)) :=
  hports ▸ step_present op din s

end Sys2Proof.Machine

open Sys2Proof Sys2Proof.Machine

/-- Settles O26: both values encode to one byte, and the byte is all that is sampled. -/
theorem encbcdWrapsModulo100 : Obligations.EncbcdWrapsModulo100 := by
  unfold Obligations.EncbcdWrapsModulo100
  intro v s
  rw [exec_encbcd, exec_encbcd, enc_ofNat_mod]

/-- Settles O27: the byte of an encoding is its tens digit times 16 plus its units digit. -/
theorem encodedByteIsBcd : Obligations.EncodedByteIsBcd := by
  unfold Obligations.EncodedByteIsBcd
  exact fun v => ⟨isBcd_enc v, enc_getLsbD_seven v, enc_getLsbD_six v, enc_lt_iff v⟩

/-- Settles O28: the second sample is `dec (enc v)`. -/
theorem encodeThenDecodeIsModulo100 : Obligations.EncodeThenDecodeIsModulo100 := by
  unfold Obligations.EncodeThenDecodeIsModulo100
  intro v s
  refine ⟨_, _, _, _, exec_encbcd v s, sampleOutputs_samples _ s,
    step_present_of_eq (portFunction_one_byte _ _) _, sampleOutputs_samples _ _, ?_, fun hv => ?_⟩
  · rw [lane_zero_resultOutputs_cons, dec_enc_toNat]
  · rw [lane_zero_resultOutputs_cons, dec_enc_of_le hv]

/-- Settles O29: the second sample is `enc (dec b)`, a packed-BCD byte, which the second round trip keeps. -/
theorem decodeThenEncodeFixesExactlyBcd : Obligations.DecodeThenEncodeFixesExactlyBcd := by
  unfold Obligations.DecodeThenEncodeFixesExactlyBcd
  intro b s
  refine ⟨_, _, _, _, exec_decbcd b s, sampleOutputs_samples _ s,
    step_present_of_eq (portFunction_zero_byte _ _) _, sampleOutputs_samples _ _, ?_⟩
  rw [lane_zero_resultOutputs_cons]
  refine ⟨isBcd_enc _, enc_dec_eq_iff b, _, _, _, _, exec_decbcd _ _, sampleOutputs_samples _ _,
    step_present_of_eq (portFunction_zero_byte _ _) _, sampleOutputs_samples _ _, ?_⟩
  rw [lane_zero_resultOutputs_cons, enc_dec_of_isBcd (isBcd_enc _)]

end

section
/-! Rules R62, R64, R70, R72 to R74 in numbers: the month/century byte, the year, and the packer's two round
trips. -/

namespace Sys2Proof.Machine

/-! Bytes as numbers. -/

/-- The century bit as a number (rule R35). -/
theorem getLsbD_seven_toNat (b : Byte) : (b.getLsbD 7).toNat = b.toNat / 128 := by
  have hlt := b.isLt
  have hbit : (b.getLsbD 7).toNat = b.toNat / 2 ^ 7 % 2 := Nat.toNat_testBit b.toNat 7
  omega

/-- The month mask keeps the low five bits (rule R69). -/
theorem and_monthMask_toNat (b : Byte) : (b &&& 0x1F#8).toNat = b.toNat % 32 :=
  Nat.and_two_pow_sub_one_eq_mod b.toNat 5

/-- A byte with bits 6:5 clear. -/
theorem and_spillMask_eq_zero_iff (b : Byte) : b &&& 0x60#8 = 0 ↔ b.toNat / 32 % 4 = 0 := by
  revert b; decide

theorem dec_le (b : Byte) : (dec b).toNat ≤ 165 := by
  have hlt := b.isLt
  rw [dec_toNat]
  omega

theorem dec_le_of_isBcd {b : Byte} (hb : isBcd b = true) : (dec b).toNat ≤ 99 := by
  obtain ⟨htens, hunits⟩ := (isBcd_iff b).mp hb
  rw [dec_toNat]
  omega

/-! The month/century byte of a packed frame (rules R60, R62 and R64). -/

/-- SPEC of the month/century byte: the century bit is set by the year or by the spilled month, and the bits
below it are those of the encoded month. -/
theorem packFrame_w6_toNat (t : TimeValue) :
    (packFrame thisBlock t).w6.toNat =
      (if 100 ≤ t.year.toNat ∨ 80 ≤ t.month.toNat % 100 then 128 else 0) + (enc t.month).toNat % 128 := by
  have hor (b : Byte) : (1#8 <<< 7 ||| b).toNat = 128 + b.toNat % 128 := by revert b; decide
  have hspill := enc_getLsbD_seven t.month
  rw [getLsbD_seven_iff] at hspill
  have hlt := (enc t.month).isLt
  change ((centuryOf t.year <<< 7) ||| enc t.month).toNat = _
  by_cases hyear : 100 ≤ t.year.toNat
  · rw [centuryOf, if_pos hyear, if_pos (.inl hyear)]
    exact hor (enc t.month)
  · have hzero : centuryOf t.year <<< 7 = 0#8 := by rw [centuryOf, if_neg hyear]; rfl
    rw [hzero, BitVec.zero_or]
    split <;> omega

/-- Below the century bit stand the digits of the month (rule R64). -/
theorem packFrame_w6_mod (t : TimeValue) :
    (packFrame thisBlock t).w6.toNat % 128 = (t.month.toNat / 10 % 10 * 16 + t.month.toNat % 10) % 128 := by
  rw [packFrame_w6_toNat, enc_toNat]
  split <;> omega

/-- The two fields of the month byte in the digits of a packed month: the mask field, and bits 6:5. -/
theorem monthFields_of_mod {w tens units : Nat} (hunits : units ≤ 9)
    (hw : w % 128 = (tens * 16 + units) % 128) :
    w % 32 = tens % 2 * 16 + units ∧ w / 32 % 4 = tens / 2 % 4 := by
  omega

/-- The year byte is the encoding of the whole year (rule R62). -/
theorem packFrame_w7 (p : Params) (t : TimeValue) : (packFrame p t).w7 = enc t.year :=
  enc_ofNat_mod t.year

/-- The century bit of a packed frame. -/
theorem packFrame_w6_getLsbD_seven (t : TimeValue) :
    (packFrame thisBlock t).w6.getLsbD 7 = true ↔ 100 ≤ t.year.toNat ∨ 80 ≤ t.month.toNat % 100 := by
  rw [getLsbD_seven_iff, packFrame_w6_toNat]
  split
  next hset => exact iff_of_true (by omega) hset
  next hclear => exact iff_of_false (by omega) hclear

/-! The year and the month unpacked (rules R69, R70 and R72). -/

/-- The month in the number of its byte. -/
theorem unpackMonth_toNat_eq (b : Byte) :
    (unpackMonth thisBlock b).toNat = b.toNat / 16 % 2 * 10 + b.toNat % 16 := by
  rw [unpackMonth, thisBlock_monthMask, dec_toNat, and_monthMask_toNat]
  omega

/-- The sum of the year passes 255 exactly with the century bit set and a year byte from 0xF6 on (rule R70,
decision D9). -/
theorem yearSum_gt_iff (b5 b6 : Byte) :
    b5.getLsbD 7 = true ∧ 0xF6 ≤ b6.toNat ↔ 255 < 100 * (b5.getLsbD 7).toNat + (dec b6).toNat := by
  have hlt := b6.isLt
  rw [dec_toNat]
  cases b5.getLsbD 7
  · exact iff_of_false (fun h => Bool.false_ne_true h.1) (by rw [Bool.toNat_false]; omega)
  · rw [Bool.toNat_true, and_iff_right rfl]
    omega

/-- The sum that wraps keeps what the year byte has above 0xF6 (rule R70, decision D9). -/
theorem unpackYear_of_wrap {b5 b6 : Byte} (hcentury : b5.getLsbD 7 = true) (hyear : 0xF6 ≤ b6.toNat) :
    (unpackYear thisBlock b5 b6).toNat = b6.toNat - 0xF6 := by
  have hlt := b6.isLt
  rw [unpackYear_toNat, hcentury, Bool.toNat_true, dec_toNat]
  omega

/-- With a packed-BCD year byte nothing wraps (rule R70). -/
theorem unpackYear_of_isBcd (b5 : Byte) {b6 : Byte} (hb : isBcd b6 = true) :
    (unpackYear thisBlock b5 b6).toNat = 100 * (b5.getLsbD 7).toNat + (dec b6).toNat := by
  have hdec := dec_le_of_isBcd hb
  have hbit := Bool.toNat_le (b5.getLsbD 7)
  rw [unpackYear_toNat]
  omega

/-! Pack, then unpack (rule R73). -/

/-- The year of the frame read back: a spilled month adds a century. -/
theorem unpackYear_packFrame (t : TimeValue) :
    (unpackYear thisBlock (packFrame thisBlock t).w6 (packFrame thisBlock t).w7).toNat =
      (100 * (if 100 ≤ t.year.toNat ∨ 80 ≤ t.month.toNat % 100 then 1 else 0) + t.year.toNat % 100) %
        256 := by
  rw [unpackYear_toNat, packFrame_w7, dec_enc_toNat]
  split
  next hset => rw [(packFrame_w6_getLsbD_seven t).mpr hset, Bool.toNat_true]
  next hclear =>
    rw [Bool.eq_false_iff.mpr (mt (packFrame_w6_getLsbD_seven t).mp hclear), Bool.toNat_false]

/-- The month of the frame read back: the mask drops all but one bit of its tens. -/
theorem unpackMonth_packFrame (t : TimeValue) :
    (unpackMonth thisBlock (packFrame thisBlock t).w6).toNat =
      10 * (t.month.toNat / 10 % 10 % 2) + t.month.toNat % 10 := by
  rw [unpackMonth_toNat_eq, packFrame_w6_toNat, enc_toNat]
  split <;> omega

/-- The hour read back: bit 6 of its byte selects the 12-hour branch (rules R61 and R67). -/
theorem unpackHour_enc (h : Byte) :
    unpackHour thisBlock (enc h) =
      if 40 ≤ h.toNat % 100 ∧ h.toNat % 100 ≤ 79 then Config.hour12 (enc h)
        else BitVec.ofNat 8 (h.toNat % 100) := by
  split
  next hmode => exact unpackHour_mode12 ((enc_getLsbD_six h).mpr hmode)
  next hmode =>
    rw [unpackHour_mode24 (Bool.eq_false_iff.mpr (mt (enc_getLsbD_six h).mp hmode))]
    refine BitVec.eq_of_toNat_eq ?_
    rw [dec_enc_toNat, BitVec.toNat_ofNat]
    omega

/-- The ranges under which a time value survives the round trip, as propositions. -/
theorem packable_iff (t : TimeValue) :
    t.packable = true ↔ t.year.toNat ≤ 199 ∧ t.month.toNat ≤ 19 ∧ t.day.toNat ≤ 99 ∧ t.hour.toNat ≤ 39 ∧
      t.minute.toNat ≤ 99 ∧ t.second.toNat ≤ 99 := by
  simp [TimeValue.packable, and_assoc]

/-- The intended ranges (rule R33), as propositions. -/
theorem inRange_iff (t : TimeValue) :
    t.inRange = true ↔ t.year.toNat ≤ 199 ∧ (1 ≤ t.month.toNat ∧ t.month.toNat ≤ 12) ∧
      (1 ≤ t.day.toNat ∧ t.day.toNat ≤ 31) ∧ t.hour.toNat ≤ 23 ∧ t.minute.toNat ≤ 59 ∧
      t.second.toNat ≤ 59 := by
  simp [TimeValue.inRange, and_assoc]

/-- Within those ranges unpacking the frame read back is the identity (rule R73). -/
theorem unpackFrame_readBack_packFrame {t : TimeValue} (ht : t.packable = true) :
    unpackFrame thisBlock (readBack (packFrame thisBlock t)) = t := by
  obtain ⟨hyear, hmonth, hday, hhour, hminute, hsecond⟩ := (packable_iff t).mp ht
  have year_eq : unpackYear thisBlock (packFrame thisBlock t).w6 (packFrame thisBlock t).w7 = t.year := by
    refine BitVec.eq_of_toNat_eq ?_
    rw [unpackYear_packFrame]
    split <;> omega
  have month_eq : unpackMonth thisBlock (packFrame thisBlock t).w6 = t.month := by
    refine BitVec.eq_of_toNat_eq ?_
    rw [unpackMonth_packFrame]
    omega
  have hour_eq : unpackHour thisBlock (enc t.hour) = t.hour := by
    refine BitVec.eq_of_toNat_eq ?_
    rw [unpackHour_enc, if_neg (by omega), BitVec.toNat_ofNat]
    omega
  exact (TimeValue.mk.injEq ..).mpr ⟨year_eq, month_eq, dec_enc_of_le hday, hour_eq, dec_enc_of_le hminute,
    dec_enc_of_le hsecond⟩

/-! Unpack, then pack (rule R74). -/

/-- The month/century byte comes back where bits 6:5 are clear and the rest is packed BCD. -/
theorem packFrame_unpackFrame_w6 {f : ReadFrame} (hspill : f.b5 &&& 0x60#8 = 0)
    (hmonth : isBcd (f.b5 &&& 0x1F#8) = true) (hyear : isBcd f.b6 = true) :
    (packFrame thisBlock (unpackFrame thisBlock f)).w6 = f.b5 := by
  have hcentury : 100 ≤ (unpackYear thisBlock f.b5 f.b6).toNat ↔ 128 ≤ f.b5.toNat := by
    have hdec := dec_le_of_isBcd hyear
    rw [unpackYear_of_isBcd f.b5 hyear, getLsbD_seven_toNat]
    omega
  have hmonth_le := unpackMonth_le f.b5
  have hmonth_byte : (enc (unpackMonth thisBlock f.b5)).toNat = f.b5.toNat % 32 := by
    rw [unpackMonth, thisBlock_monthMask, enc_dec_of_isBcd hmonth, and_monthMask_toNat]
  rw [and_spillMask_eq_zero_iff] at hspill
  have hlt := f.b5.isLt
  refine BitVec.eq_of_toNat_eq ?_
  rw [packFrame_w6_toNat]
  change (if 100 ≤ (unpackYear thisBlock f.b5 f.b6).toNat ∨ 80 ≤ (unpackMonth thisBlock f.b5).toNat % 100
    then 128 else 0) + (enc (unpackMonth thisBlock f.b5)).toNat % 128 = f.b5.toNat
  rw [hmonth_byte]
  split <;> omega

/-- The year byte comes back where it is packed BCD: a century changes neither of its digits. -/
theorem packFrame_unpackFrame_w7 {f : ReadFrame} (hyear : isBcd f.b6 = true) :
    (packFrame thisBlock (unpackFrame thisBlock f)).w7 = f.b6 := by
  have hmod : (unpackYear thisBlock f.b5 f.b6).toNat % 100 = (dec f.b6).toNat % 100 := by
    rw [unpackYear_of_isBcd f.b5 hyear, Nat.mul_add_mod]
  rw [packFrame_w7]
  exact (enc_congr hmod).trans (enc_dec_of_isBcd hyear)

/-! A time value fed back from `dout` (rule R41). -/

@[simp] theorem timeOfDin_dinOfTime (d6 : Byte) (t : TimeValue) :
    timeOfDin (dinOfTime d6 (resultOutputs (timeBytes t)).dout) = t := by
  simp [timeOfDin, dinOfTime, timeBytes]

/-- PACKT of a sampled time value. -/
theorem portFunction_two_time (p : Params) (d6 : Byte) (t : TimeValue) :
    portFunction p 2#3 (dinOfTime d6 (resultOutputs (timeBytes t)).dout) =
      resultOutputs (writeFrameBytes (packFrame p t)) := by
  rw [portFunction_two, timeOfDin_dinOfTime]

end Sys2Proof.Machine

end

section
/-! Rules R62, R64, R73 and R74 through the machine. -/

open Sys2Proof Sys2Proof.Machine

/-- Settles O32: the century bit is the year's for a month that does not spill. -/
theorem packedYearAndCentury : Obligations.PackedYearAndCentury := by
  unfold Obligations.PackedYearAndCentury
  intro T s
  have hw6 : lane 6 (resultOutputs (writeFrameBytes (packFrame thisBlock T))).dout =
      (packFrame thisBlock T).w6 := lane_resultOutputs _ (by decide)
  have hw7 : lane 7 (resultOutputs (writeFrameBytes (packFrame thisBlock T))).dout =
      (packFrame thisBlock T).w7 := lane_resultOutputs _ (by decide)
  refine ⟨_, _, _, _, exec_packt T s, sampleOutputs_samples _ s, ?_, fun hmonth => ?_,
    step_present_of_eq (portFunction_three_writeFrame thisBlock _) _, sampleOutputs_samples _ _,
    fun hmonth => ?_⟩
  · rw [hw7, packFrame_w7]
  · rw [hw6, packFrame_w6_getLsbD_seven]
    omega
  · have hlt := T.year.isLt
    rw [lane_zero_unpackFrame]
    refine (unpackYear_packFrame T).trans ?_
    split <;> split <;> omega

/-- Settles O33: the digits of the month as they stand in the month/century byte. -/
theorem packedMonthSpills : Obligations.PackedMonthSpills := by
  unfold Obligations.PackedMonthSpills
  intro T s
  have hw6 : lane 6 (resultOutputs (writeFrameBytes (packFrame thisBlock T))).dout =
      (packFrame thisBlock T).w6 := lane_resultOutputs _ (by decide)
  obtain ⟨hmask, hspill⟩ := monthFields_of_mod (by omega) (packFrame_w6_mod T)
  refine ⟨_, _, exec_packt T s, sampleOutputs_samples _ s, ?_⟩
  rw [hw6, hmask, hspill]
  refine ⟨?_, rfl, fun hmonth => ?_, fun hmonth => (packFrame_w6_getLsbD_seven T).mpr (.inr hmonth)⟩
  · omega
  · have hdigits : T.month.toNat % 100 = T.month.toNat / 10 % 10 * 10 + T.month.toNat % 10 := by omega
    have htens : T.month.toNat / 10 % 10 ≤ 1 := by omega
    rw [Nat.div_eq_of_lt (Nat.lt_succ_of_le htens)]

/-- Settles O40: field by field of the frame read back. -/
theorem packThenUnpackFields : Obligations.PackThenUnpackFields := by
  unfold Obligations.PackThenUnpackFields
  intro T s
  have hlane (i : Nat) (hi : i < 20) :=
    lane_resultOutputs (timeBytes (unpackFrame thisBlock (readBack (packFrame thisBlock T)))) hi
  refine ⟨_, _, _, _, exec_packt T s, sampleOutputs_samples _ s,
    step_present_of_eq (portFunction_three_writeFrame thisBlock _) _, sampleOutputs_samples _ _,
    resultOutputs_ill _, ?_⟩
  rw [hlane 0 (by decide), hlane 1 (by decide), hlane 2 (by decide), hlane 3 (by decide),
    hlane 4 (by decide), hlane 5 (by decide)]
  exact ⟨unpackYear_packFrame T, unpackMonth_packFrame T, dec_enc_toNat T.day, unpackHour_enc T.hour,
    dec_enc_toNat T.minute, dec_enc_toNat T.second⟩

/-- Settles O41: each field of the frame read back is the field within those ranges. -/
theorem packThenUnpackIsIdentityInRange : Obligations.PackThenUnpackIsIdentityInRange := by
  unfold Obligations.PackThenUnpackIsIdentityInRange
  refine ⟨fun T hT => ?_, fun T s hT => ⟨_, _, _, _, exec_packt T s, sampleOutputs_samples _ s,
    step_present_of_eq (portFunction_three_writeFrame thisBlock _) _, sampleOutputs_samples _ _, ?_⟩⟩
  · rw [inRange_iff] at hT
    rw [packable_iff]
    omega
  · rw [timeOfDin_dinOfTime, unpackFrame_readBack_packFrame hT]

/-- Settles O42: byte by byte of the frame packed again. -/
theorem unpackThenPackBytes : Obligations.UnpackThenPackBytes := by
  unfold Obligations.UnpackThenPackBytes
  intro B d6 s
  have hlane (i : Nat) (hi : i < 20) :=
    lane_resultOutputs (writeFrameBytes (packFrame thisBlock (unpackFrame thisBlock B))) hi
  refine ⟨_, _, _, _, exec_unpkt B s, sampleOutputs_samples _ s,
    step_present_of_eq (portFunction_two_time thisBlock d6 _) _, sampleOutputs_samples _ _, ?_⟩
  rw [hlane 1 (by decide), hlane 2 (by decide), hlane 3 (by decide), hlane 4 (by decide),
    hlane 5 (by decide), hlane 6 (by decide), hlane 7 (by decide)]
  refine ⟨enc_dec_of_isBcd, enc_dec_of_isBcd, fun hbcd hmode => ?_, fun hmode => ?_, rfl, enc_dec_of_isBcd,
    packFrame_unpackFrame_w6, packFrame_unpackFrame_w7⟩
  · exact (congrArg enc (unpackHour_mode24 hmode)).trans (enc_dec_of_isBcd hbcd)
  · exact congrArg enc (unpackHour_mode12 hmode)

/-- Settles O43: `DI[6]` is no operand of PACKT or FMTT. -/
theorem resultsFeedBackAsOperands : Obligations.ResultsFeedBackAsOperands := by
  unfold Obligations.ResultsFeedBackAsOperands
  intro B T d6 s
  refine ⟨_, _, _, _, exec_unpkt B s, sampleOutputs_samples _ s, exec_packt T s, sampleOutputs_samples _ s,
    ?_, ?_, ?_⟩
  · exact congrArg Instr.packt (timeOfDin_dinOfTime d6 _)
  · exact congrArg Instr.fmtt (timeOfDin_dinOfTime d6 _)
  · exact congrArg Instr.unpkt (frameOfDin_dinOfWriteFrame _)

end

section
/-! Rules R70 to R72 and R106: the ranges of the unpacked fields, and which bits of the frame reach one. -/

namespace Sys2Proof.Machine

/-! A state reached by sampling determines the result bytes sampled. -/

theorem sampleOutputs_injective {o r : Outputs} {s : State} (h : sampleOutputs o s = sampleOutputs r s) :
    o = r := by
  have hsamples := congrArg State.samples h
  rw [sampleOutputs_samples, sampleOutputs_samples] at hsamples
  exact List.singleton_inj.mp (List.append_cancel_left hsamples)

/-- `dout` has a lane for each result byte (rule R41). -/
theorem resultOutputs_injective {bs cs : List Byte} (hlen : bs.length = cs.length) (hfit : bs.length ≤ 20)
    (h : resultOutputs bs = resultOutputs cs) : bs = cs := by
  refine List.ext_getElem hlen fun i hb hc => ?_
  have hlane := congrArg (fun o => lane i o.dout) h
  simp only [lane_resultOutputs _ (show i < 20 by omega)] at hlane
  rwa [List.getD_eq_getElem _ _ hb, List.getD_eq_getElem _ _ hc] at hlane

/-- Two frames that UNPKT answers alike unpack to one time value. -/
theorem unpackFrame_eq_of_exec_eq {f g : ReadFrame} {s : State}
    (h : exec (.unpkt f) s = exec (.unpkt g) s) : unpackFrame thisBlock f = unpackFrame thisBlock g := by
  rw [exec_unpkt, exec_unpkt] at h
  have houtputs := sampleOutputs_injective (Host.Outcome.next.inj h)
  have hdin := congrArg (fun o => timeOfDin (dinOfTime 0 o.dout)) houtputs
  simpa only [timeOfDin_dinOfTime] using hdin

/-! Flipping one bit of a byte (rule R71). -/

/-- Flipping bits of one nibble changes what `dec` reads: the other digit stays and this one does not. -/
theorem dec_xor_ne {b m : Byte} (hm : m ≠ 0) (hnibble : m.toNat / 16 = 0 ∨ m.toNat % 16 = 0) :
    dec (b ^^^ m) ≠ dec b := by
  have hhi : (b ^^^ m).toNat / 16 = b.toNat / 16 ^^^ m.toNat / 16 := Nat.xor_div_two_pow (n := 4)
  have hlo : (b ^^^ m).toNat % 16 = b.toNat % 16 ^^^ m.toNat % 16 := Nat.xor_mod_two_pow (n := 4)
  have hxor : b ^^^ m ≠ b := fun h => hm ((BitVec.xor_right_inj b).mp (h.trans BitVec.xor_zero.symm))
  refine fun h => hxor (BitVec.eq_of_toNat_eq ?_)
  have hdec := congrArg BitVec.toNat h
  rw [dec_toNat, dec_toNat] at hdec
  rcases hnibble with hzero | hzero
  · rw [hzero, Nat.xor_zero] at hhi
    omega
  · rw [hzero, Nat.xor_zero] at hlo
    omega

/-- Flipping one bit of a byte changes what `dec` reads. -/
theorem dec_xor_oneBit_ne (b : Byte) {k : Nat} (hk : k < 8) : dec (b ^^^ 1#8 <<< k) ≠ dec b := by
  refine dec_xor_ne ?_ ?_ <;> revert k <;> decide

/-- Flipping any bit but the mode bit of a 24-hour byte changes the hour. -/
theorem unpackHour_xor_oneBit_ne {b : Byte} (hmode : b.getLsbD 6 = false) {k : Nat} (hk : k < 8)
    (hk6 : k ≠ 6) :
    unpackHour thisBlock (b ^^^ 1#8 <<< k) ≠ unpackHour thisBlock b := by
  have hbit : (1#8 <<< k).getLsbD 6 = false := by revert k; decide
  have hmode' : (b ^^^ 1#8 <<< k).getLsbD 6 = false := by
    rw [BitVec.getLsbD_xor, hmode, hbit, Bool.xor_false]
  rw [unpackHour_mode24 hmode', unpackHour_mode24 hmode]
  exact dec_xor_oneBit_ne b hk

/-- Flipping a bit under the month mask changes the month. -/
theorem unpackMonth_xor_oneBit_ne (b : Byte) {k : Nat} (hk : k < 5) :
    unpackMonth thisBlock (b ^^^ 1#8 <<< k) ≠ unpackMonth thisBlock b := by
  have hbit : (1#8 <<< k) &&& 0x1F#8 = 1#8 <<< k := by revert k; decide
  have hmask : (b ^^^ 1#8 <<< k) &&& 0x1F#8 = (b &&& 0x1F#8) ^^^ 1#8 <<< k := by
    nth_rw 2 [← hbit]
    exact BitVec.eq_of_toNat_eq Nat.and_xor_distrib_right
  rw [unpackMonth, unpackMonth, thisBlock_monthMask, hmask]
  exact dec_xor_oneBit_ne _ (by omega)

/-- Flipping the century bit changes the year: 100 is no multiple of 256. -/
theorem unpackYear_xor_century_ne (b5 b6 : Byte) :
    unpackYear thisBlock (b5 ^^^ 1#8 <<< 7) b6 ≠ unpackYear thisBlock b5 b6 := by
  intro h
  have hyear := congrArg BitVec.toNat h
  have hflip : (b5 ^^^ 1#8 <<< 7).getLsbD 7 = !b5.getLsbD 7 := by
    rw [BitVec.getLsbD_xor]
    exact Bool.xor_true _
  rw [unpackYear_toNat, unpackYear_toNat, hflip] at hyear
  cases hbit : b5.getLsbD 7 <;> simp only [hbit, Bool.not_true, Bool.not_false, Bool.toNat_true,
    Bool.toNat_false] at hyear <;> omega

/-- Flipping a bit of the year byte changes the year: its two digits stay below 256. -/
theorem unpackYear_xor_oneBit_ne (b5 b6 : Byte) {k : Nat} (hk : k < 8) :
    unpackYear thisBlock b5 (b6 ^^^ 1#8 <<< k) ≠ unpackYear thisBlock b5 b6 := by
  intro h
  have hyear := congrArg BitVec.toNat h
  have hle := dec_le b6
  have hle' := dec_le (b6 ^^^ 1#8 <<< k)
  rw [unpackYear_toNat, unpackYear_toNat] at hyear
  exact dec_xor_oneBit_ne b6 hk (BitVec.eq_of_toNat_eq (by omega))

/-! Ranges (rule R72). -/

/-- A 24-hour frame of packed-BCD bytes, as propositions. -/
theorem isBcd24_iff (f : ReadFrame) :
    f.isBcd24 = true ↔ isBcd f.b0 = true ∧ isBcd f.b1 = true ∧ isBcd f.b2 = true ∧ isBcd f.b4 = true ∧
      isBcd (f.b5 &&& 0x1F#8) = true ∧ isBcd f.b6 = true ∧ f.b2.getLsbD 6 = false := by
  simp [ReadFrame.isBcd24, and_assoc]

/-- The month of a packed-BCD month field has one bit of tens. -/
theorem unpackMonth_le_of_isBcd {b : Byte} (hb : isBcd (b &&& 0x1F#8) = true) :
    (unpackMonth thisBlock b).toNat ≤ 19 := by
  obtain ⟨-, hunits⟩ := (isBcd_iff _).mp hb
  rw [and_monthMask_toNat] at hunits
  rw [unpackMonth_toNat_eq]
  omega

/-- The year of a packed-BCD year byte. -/
theorem unpackYear_le_of_isBcd (b5 : Byte) {b6 : Byte} (hb : isBcd b6 = true) :
    (unpackYear thisBlock b5 b6).toNat ≤ 199 := by
  have hdec := dec_le_of_isBcd hb
  have hbit := Bool.toNat_le (b5.getLsbD 7)
  rw [unpackYear_of_isBcd b5 hb]
  omega

/-- The hour of a packed-BCD byte with the mode bit clear. -/
theorem unpackHour_range_of_isBcd {b : Byte} (hb : isBcd b = true) (hmode : b.getLsbD 6 = false) :
    (unpackHour thisBlock b).toNat ≤ 39 ∨
      (80 ≤ (unpackHour thisBlock b).toNat ∧ (unpackHour thisBlock b).toNat ≤ 99) := by
  obtain ⟨htens, hunits⟩ := (isBcd_iff b).mp hb
  rw [unpackHour_mode24 hmode, dec_toNat]
  rw [getLsbD_six_eq_false_iff] at hmode
  omega

/-- Changing the hour alone changes byte 3 of the result alone. -/
theorem timeBytes_hour_getD (t : TimeValue) (h : Byte) {i : Nat} (hi : i ≠ 3) :
    (timeBytes { t with hour := h }).getD i 0#8 = (timeBytes t).getD i 0#8 := by
  match i, hi with
  | 0, _ | 1, _ | 2, _ | 4, _ | 5, _ | _ + 6, _ => rfl

end Sys2Proof.Machine

open Sys2Proof Sys2Proof.Machine

/-- Settles O36: below 100 the year byte cannot carry the sum past 255. -/
theorem unpackedYearBounds : Obligations.UnpackedYearBounds := by
  unfold Obligations.UnpackedYearBounds
  intro B s
  refine ⟨_, _, exec_unpkt B s, sampleOutputs_samples _ s, ?_⟩
  rw [lane_zero_unpackFrame]
  exact ⟨fun hbcd => ⟨unpackYear_of_isBcd B.b5 hbcd, unpackYear_le_of_isBcd B.b5 hbcd⟩,
    yearSum_gt_iff B.b5 B.b6, fun ⟨hcentury, hyear⟩ => unpackYear_of_wrap hcentury hyear⟩

/-- Settles O37: each flipped bit changes the field that reads it. -/
theorem unpackReadsEveryOtherBit : Obligations.UnpackReadsEveryOtherBit := by
  unfold Obligations.UnpackReadsEveryOtherBit
  intro B s x k hmode hk
  have hne {f : ReadFrame} {α : Type} (field : TimeValue → α)
      (hfield : field (unpackFrame thisBlock f) ≠ field (unpackFrame thisBlock B)) :
      exec (.unpkt f) s ≠
        .next (sampleOutputs (resultOutputs (timeBytes (unpackFrame thisBlock B))) s) :=
    fun h => hfield (congrArg field (unpackFrame_eq_of_exec_eq (h.trans (exec_unpkt B s).symm)))
  refine ⟨_, exec_unpkt B s, exec_unpkt { B with b3 := x } s, ?_, ?_, fun hk6 => ?_, ?_,
    fun hk5 hk6 => ?_, ?_⟩
  · exact hne TimeValue.second (dec_xor_oneBit_ne B.b0 hk)
  · exact hne TimeValue.minute (dec_xor_oneBit_ne B.b1 hk)
  · exact hne TimeValue.hour (unpackHour_xor_oneBit_ne hmode hk hk6)
  · exact hne TimeValue.day (dec_xor_oneBit_ne B.b4 hk)
  · by_cases hmonth : k < 5
    · exact hne TimeValue.month (unpackMonth_xor_oneBit_ne B.b5 hmonth)
    · obtain rfl : k = 7 := by omega
      exact hne TimeValue.year (unpackYear_xor_century_ne B.b5 B.b6)
  · exact hne TimeValue.year (unpackYear_xor_oneBit_ne B.b5 B.b6 hk)

/-- Settles O38: field by field. -/
theorem unpackedRanges : Obligations.UnpackedRanges := by
  unfold Obligations.UnpackedRanges
  intro B s
  have hlane (i : Nat) (hi : i < 20) := lane_resultOutputs (timeBytes (unpackFrame thisBlock B)) hi
  refine ⟨_, _, exec_unpkt B s, sampleOutputs_samples _ s, ?_⟩
  rw [hlane 0 (by decide), hlane 1 (by decide), hlane 2 (by decide), hlane 3 (by decide),
    hlane 4 (by decide), hlane 5 (by decide)]
  refine ⟨unpackMonth_le B.b5, dec_le B.b4, dec_le B.b1, dec_le B.b0, fun hB => ?_⟩
  obtain ⟨hsecond, hminute, hhour, hday, hmonth, hyear, hmode⟩ := (isBcd24_iff B).mp hB
  exact ⟨unpackYear_le_of_isBcd B.b5 hyear, unpackMonth_le_of_isBcd hmonth, dec_le_of_isBcd hday,
    unpackHour_range_of_isBcd hhour hmode, dec_le_of_isBcd hminute, dec_le_of_isBcd hsecond⟩

/-- Settles O39: the hour byte reaches the hour alone. -/
theorem otherFieldsIgnoreTheHourByte : Obligations.OtherFieldsIgnoreTheHourByte := by
  unfold Obligations.OtherFieldsIgnoreTheHourByte
  intro B b s
  refine ⟨_, _, _, _, exec_unpkt B s, sampleOutputs_samples _ s, exec_unpkt { B with b2 := b } s,
    sampleOutputs_samples _ s, fun i hi hne => ?_⟩
  rw [lane_resultOutputs _ hi, lane_resultOutputs _ hi]
  exact (timeBytes_hour_getD (unpackFrame thisBlock B) (unpackHour thisBlock b) hne).symm

end

section
/-! Rules R80 to R83: the shape of the formatted string, and the time value it determines. -/

namespace Sys2Proof.Machine

/-- The code of a decimal digit (rule R83). -/
def IsDigit (b : Byte) : Prop := 0x30 ≤ b.toNat ∧ b.toNat ≤ 0x39

theorem isDigit_digitChar {n : Nat} (hn : n ≤ 9) : IsDigit (digitChar n) := by
  rw [IsDigit, digitChar_toNat (by omega)]
  omega

theorem isDigit_loDigit (v : Byte) : IsDigit (loDigit v) := isDigit_digitChar (by omega)

/-- The tens of a field of at most 99 are one digit (rule R82). -/
theorem isDigit_hiDigit {v : Byte} (hv : v.toNat ≤ 99) : IsDigit (hiDigit v) := isDigit_digitChar (by omega)

/-- The ranges in which every field has two digits, as propositions. -/
theorem printable_iff (t : TimeValue) :
    t.printable = true ↔ t.month.toNat ≤ 99 ∧ t.day.toNat ≤ 99 ∧ t.hour.toNat ≤ 99 ∧ t.minute.toNat ≤ 99 ∧
      t.second.toNat ≤ 99 := by
  simp [TimeValue.printable, and_assoc]

/-- Every character of a printable time value but the separators and the terminator is a digit. -/
theorem isDigit_formatTime_getD (p : Params) {t : TimeValue} (ht : t.printable = true) {i : Nat} (hi : i < 19)
    (h4 : i ≠ 4) (h7 : i ≠ 7) (h10 : i ≠ 10) (h13 : i ≠ 13) (h16 : i ≠ 16) :
    IsDigit ((formatTime p t).getD i 0#8) := by
  obtain ⟨hmonth, hday, hhour, hminute, hsecond⟩ := (printable_iff t).mp ht
  match i, hi with
  | 0, _ | 1, _ | 2, _ | 3, _ => exact isDigit_digitChar (Nat.le_of_lt_succ (Nat.mod_lt _ (by decide)))
  | 5, _ => exact isDigit_hiDigit hmonth
  | 8, _ => exact isDigit_hiDigit hday
  | 11, _ => exact isDigit_hiDigit hhour
  | 14, _ => exact isDigit_hiDigit hminute
  | 17, _ => exact isDigit_hiDigit hsecond
  | 6, _ | 9, _ | 12, _ | 15, _ | 18, _ => exact isDigit_loDigit _
  | _ + 19, h => exact absurd h (by omega)

/-- The two characters of a field determine it, for every value (rule R82, decision D13). -/
theorem eq_of_digits_eq {v w : Byte} (hhi : hiDigit v = hiDigit w) (hlo : loDigit v = loDigit w) : v = w := by
  have htens := congrArg BitVec.toNat hhi
  have hunits := congrArg BitVec.toNat hlo
  rw [hiDigit_toNat, hiDigit_toNat] at htens
  rw [loDigit_toNat, loDigit_toNat] at hunits
  exact BitVec.eq_of_toNat_eq (by omega)

/-- The last three characters of the year determine it: the calendar year is 2000 to 2255 (rule R81). -/
theorem year_eq_of_digits_eq {y z : Byte}
    (hdigit : ∀ k, k < 3 →
      digitChar ((2000 + y.toNat) / 10 ^ k % 10) = digitChar ((2000 + z.toNat) / 10 ^ k % 10)) :
    y = z := by
  have hnum (k : Nat) (hk : k < 3) : (2000 + y.toNat) / 10 ^ k % 10 = (2000 + z.toNat) / 10 ^ k % 10 := by
    have hcode := congrArg BitVec.toNat (hdigit k hk)
    rw [digitChar_toNat (by omega), digitChar_toNat (by omega)] at hcode
    exact Nat.add_left_cancel hcode
  have hunits := hnum 0 (by decide)
  have htens := hnum 1 (by decide)
  have hhundreds := hnum 2 (by decide)
  have hy := y.isLt
  have hz := z.isLt
  exact BitVec.eq_of_toNat_eq (by omega)

theorem length_formatTime (p : Params) (t : TimeValue) : (formatTime p t).length = 20 := rfl

/-- The string determines the time value (rules R80 to R82). -/
theorem formatTime_injective {t u : TimeValue}
    (h : formatTime thisBlock t = formatTime thisBlock u) : t = u := by
  have hchar (i : Nat) := congrArg (fun bs => bs.getD i 0#8) h
  have year_eq : t.year = u.year := year_eq_of_digits_eq fun k hk => by
    have hdigit := hchar (3 - k)
    simp only [formatTime_getD_year thisBlock _ (show 3 - k < 4 by omega), calendarYear_thisBlock,
      Nat.sub_sub_self (Nat.le_of_lt hk)] at hdigit
    exact hdigit
  cases t
  cases u
  exact (TimeValue.mk.injEq ..).mpr ⟨year_eq, eq_of_digits_eq (hchar 5) (hchar 6),
    eq_of_digits_eq (hchar 8) (hchar 9), eq_of_digits_eq (hchar 11) (hchar 12),
    eq_of_digits_eq (hchar 14) (hchar 15), eq_of_digits_eq (hchar 17) (hchar 18)⟩

end Sys2Proof.Machine

open Sys2Proof Sys2Proof.Machine

/-- Settles O46: the separators stand in the string as literals, and every other character is a digit. -/
theorem formattedStringHasFixedShape : Obligations.FormattedStringHasFixedShape := by
  unfold Obligations.FormattedStringHasFixedShape
  intro T s
  have hchar (i : Nat) (hi : i < 20) := lane_resultOutputs (formatTime thisBlock T) hi
  refine ⟨_, _, exec_fmtt T s, sampleOutputs_samples _ s, hchar 4 (by decide), hchar 7 (by decide),
    hchar 10 (by decide), hchar 13 (by decide), hchar 16 (by decide), hchar 19 (by decide),
    fun hT i hi h4 h7 h10 h13 h16 => ?_⟩
  rw [hchar i (by omega)]
  exact isDigit_formatTime_getD thisBlock hT hi h4 h7 h10 h13 h16

/-- Settles O47: equal samples are equal strings. -/
theorem formattedStringDeterminesTime : Obligations.FormattedStringDeterminesTime := by
  unfold Obligations.FormattedStringDeterminesTime
  intro T U s t u hT hU hsamples
  rw [exec_fmtt] at hT hU
  obtain rfl := Host.Outcome.next.inj hT
  obtain rfl := Host.Outcome.next.inj hU
  rw [sampleOutputs_samples, sampleOutputs_samples] at hsamples
  have houtputs := List.singleton_inj.mp (List.append_cancel_left hsamples)
  exact formatTime_injective (resultOutputs_injective rfl (length_formatTime _ _).le houtputs)

end
